-- ==== Sys2Proof/Word.lean ====
section
/-! DEFINITION. The words of the block and what the host sends it.
Widths follow spec/00_scope.md R9 (`SYM_W` = 8, `CRC_W` = 16, `CMD_W` = 12) and R11; the two things that
can be presented to the block, a command word and a byte of the incoming wire stream, follow spec/30_encoding.md. -/

namespace Sys2Proof

/-- One wire symbol or data unit: 8 bits (R9 `SYM_W`, R11 "byte"). -/
abbrev Byte := BitVec 8

/-- A `uint16`: the checksum register and value (R9 `CRC_W`, R11). -/
abbrev Word := BitVec 16

/-- A command word, format `CMD12` (R61). -/
abbrev Cmd := BitVec 12

/-- What the host can present to the block as its next operation (R25: a model takes the sequence of operations as an
input list, or the sequence of chunks): a command word, or one byte of the incoming wire stream.
Giving a wire byte is giving the operation DEC.BYTE of that byte (R30 to R32, R66, R153). Log entry 2. -/
inductive Input where
  /-- A command word of R61. -/
  | cmd (w : Cmd)
  /-- The next byte of the incoming wire stream (R66). -/
  | wire (b : Byte)
deriving DecidableEq, Repr

end Sys2Proof
end

