-- ==== Sys2Proof/Config.lean ====
section
/-! DEFINITION. The parameters of the block in one record (spec/00_scope.md R9; spec/92_eei_decisions.md D18), and the
values that the source leaves open in the packet codec above the block, as constants with no body.
The values this hardware takes are `Config.ksf` in Sys2Proof/Machine/Params.lean. -/

namespace Sys2Proof

/-- `CRC_BYTE_ORDER` (R9). There is one order and nothing switches it (R40), so the type has one value. -/
inductive ByteOrder where
  /-- The low byte first. -/
  | littleEndian
deriving DecidableEq, Repr

/-- The parameters of R9, all of them. -/
structure Config where
  /-- `SYM_W`, the width of one wire symbol and of one data unit (R9): the width of the type `Byte`. -/
  symW : Nat
  /-- `CRC_W`, the width of the checksum (R9): the width of the type `Word`. -/
  crcW : Nat
  /-- `CMD_W`, the width of a command word (R9, D2): the width of the type `Cmd`. -/
  cmdW : Nat
  /-- `START` (R9, R27). -/
  start : Byte
  /-- `END` (R9, R27). -/
  stop : Byte
  /-- `ESC` (R9, R27). -/
  esc : Byte
  /-- `ESC_START`, the mapped code of `START` (R9, R27). -/
  escStart : Byte
  /-- `ESC_END`, the mapped code of `END` (R9, R27). -/
  escEnd : Byte
  /-- `ESC_ESC`, the mapped code of `ESC` (R9, R27). -/
  escEsc : Byte
  /-- `CRC_POLY` in the bit-reversed form that a right-shifting register uses (R9, R27, R100). -/
  crcPoly : Word
  /-- `CRC_INIT`, as it stands in the right-shifting register (R9, R100). -/
  crcInit : Word
  /-- `CRC_XOROUT` (R9, R100). -/
  crcXorOut : Word
  /-- `CRC_REFIN`: each byte is absorbed least significant bit first (R42, R100). -/
  crcRefIn : Bool
  /-- `CRC_REFOUT`: the right-shifting register is delivered as it stands (R42, R100). -/
  crcRefOut : Bool
  /-- `CRC_BYTE_ORDER`, the order of the two checksum bytes on the wire (R9, R40). -/
  crcByteOrder : ByteOrder
  /-- `BUF_CAP`: `none` is unbounded (R9, R170; spec/93_implementation_defined.md U1). -/
  bufCap : Option Nat
  /-- Packet type codes that belong to the source's enumeration and are not in its list of selected codes
  (spec/93_implementation_defined.md U5). Read by the codec only. -/
  extraTypes : List Byte
deriving DecidableEq, Repr

/-! ### The packet codec's open values (context). Log entry 12. -/

/-- Capability of a packet variant: `Sendable`, `Receivable`, or both (spec/45_packet_context.md R215). -/
inductive Capability where
  /-- Only sent: deserializing it always fails. -/
  | sendOnly
  /-- Only received. -/
  | receiveOnly
  /-- Sent and received. -/
  | both
deriving DecidableEq, Repr, Inhabited

/-- FREE VALUE: the capability of a variant of which the source does not state it (R205 empty cells, spec/91_not_in_source.md
N10), by type code. -/
opaque Config.unstatedCapability : Byte → Capability

/-- FREE VALUE: the byte that spells a boolean field of RadioLoraConfig, by its offset in the payload (R210, N10). -/
opaque Config.flagByte : Nat → Bool → Byte

/-- FREE VALUE: which two bytes of a sync word of more than 2 survive its truncation (R210, N10), as two numbers that
`Machine.keepTwo` turns into two positions. -/
opaque Config.syncKept : List Byte → Nat × Nat

/-- FREE VALUE: a sync word of less than 2 bytes is padded on the left (R210, N10). -/
opaque Config.syncPadLeft : Bool

/-- FREE VALUE: the byte that pads a sync word, by its position (R210, N10). -/
opaque Config.syncPadByte : Nat → Byte

/-- FREE VALUE: for a payload of one byte or more that the caller of RadioSend supplies separately, the length that the header declares and
the bytes that follow the header (R212, N10). -/
opaque Config.radioSendParts : List Byte → Word × List Byte

end Sys2Proof
end

