-- ==== Sys2Proof/Machine/Params.lean ====
section
/-! DEFINITION. The values of the parameters that this hardware takes (spec/00_scope.md R9, spec/10_state.md R27, spec/30_encoding.md
R65, spec/41_crc.md R100). They stand here, and not beside the record's declaration, so that a repair can mend one. -/

namespace Sys2Proof

/-- The parameters of KSF. The six wire constants are the source's (R65). The CRC parameters are supplied from general
knowledge by the spec itself (R100, GK1); log entry 7. -/
def Config.ksf : Config where
  symW := 8
  crcW := 16
  cmdW := 12
  start := 0xA5
  stop := 0xC0
  esc := 0xDB
  escStart := 0xDE
  escEnd := 0xDC
  escEsc := 0xDD
  crcPoly := 0x8408
  crcInit := 0x0000
  crcXorOut := 0x0000
  crcRefIn := true
  crcRefOut := true
  crcByteOrder := .littleEndian
  bufCap := none
  extraTypes := []

end Sys2Proof
end

