-- ==== Sys2Proof/Syntax.lean ====
section
/-! DEFINITION. The operations of the block: one constructor for each row of spec/opcode_table.json, the eight primitive
operations of spec/30_encoding.md R60 and the eight wire symbols of R66. -/

namespace Sys2Proof

/-- One operation. A primitive operation that takes no operand carries none: every value of its `din` bits selects the
same operation (R63). -/
inductive Instr where
  /-- CRC.CLR (R105). -/
  | crcClr
  /-- CRC.UPD `din` (R106). -/
  | crcUpd (din : Byte)
  /-- CRC.RD (R107). -/
  | crcRd
  /-- ENC.SOF (R132). -/
  | encSof
  /-- ENC.BYTE `din` (R133). -/
  | encByte (din : Byte)
  /-- ENC.EOF (R134). -/
  | encEof
  /-- DEC.BYTE `din` (R153). -/
  | decByte (din : Byte)
  /-- DEC.RST (R162). -/
  | decRst
  /-- SYM.START: the byte START with no escape pending (R154). -/
  | symStart
  /-- SYM.END: the byte END with no escape pending (R155). -/
  | symEnd
  /-- SYM.ESC: the byte ESC with no escape pending, the first half of a `W2` symbol (R156). -/
  | symEsc
  /-- SYM.DATA: any other byte with no escape pending (R157). -/
  | symData (byte : Byte)
  /-- SYM.ESC_START: the code byte ESC_START after an ESC (R158). -/
  | symEscStart
  /-- SYM.ESC_END: the code byte ESC_END after an ESC (R159). -/
  | symEscEnd
  /-- SYM.ESC_ESC: the code byte ESC_ESC after an ESC (R160). -/
  | symEscEsc
  /-- SYM.ESC_BAD: any other code byte after an ESC (R161). -/
  | symEscBad (code : Byte)
deriving DecidableEq, Repr

end Sys2Proof
end

