-- ==== Sys2Proof/WellFormed.lean ====
section
/-! DEFINITION. Which terms of `Instr` are operations of the block. Only the two default rows of the opcode table exclude
operand values (spec/30_encoding.md R67, R68, R79: `excludes`). -/

namespace Sys2Proof

/-- A byte is one of the three markers (spec/00_scope.md R19). -/
def isMarker (b : Byte) : Bool :=
  b == Config.ksf.start || b == Config.ksf.stop || b == Config.ksf.esc

/-- A byte is one of the three mapped codes (R19). -/
def isMappedCode (b : Byte) : Bool :=
  b == Config.ksf.escStart || b == Config.ksf.escEnd || b == Config.ksf.escEsc

/-- SYM.DATA is none of the markers (R67); SYM.ESC_BAD is none of the mapped codes (R68); every other term is an operation
for every operand (R61, R63). -/
def Instr.wellFormed : Instr → Bool
  | .symData b => !isMarker b
  | .symEscBad c => !isMappedCode c
  | .crcClr | .crcUpd _ | .crcRd | .encSof | .encByte _ | .encEof | .decByte _ | .decRst => true
  | .symStart | .symEnd | .symEsc | .symEscStart | .symEscEnd | .symEscEsc => true

end Sys2Proof
end

