-- ==== Sys2Proof/Decode.lean ====
section
/-! DEFINITION. Decoding and encoding. A command word selects an operation by its `op` field (spec/30_encoding.md R61 to R64);
a wire byte is classified by its value and the flag `esc` (R66); the numbering of the opcode table's words is R79. -/

namespace Sys2Proof

/-! ### Command words -/

/-- `cmd[11:8]`, the operation select (R61). -/
def opOf (w : Cmd) : BitVec 4 := w.extractLsb' 8 4

/-- `cmd[7:0]`, the operand byte, used as it stands (R61, R63). -/
def dinOf (w : Cmd) : Byte := w.extractLsb' 0 8

/-- Why a command word selects no operation. -/
inductive Rejection where
  /-- The word's `op` field is one of the eight reserved select codes (R64). -/
  | reservedOp (w : Cmd)
deriving DecidableEq, Repr

/-- The operation a command word selects (R62), or its rejection by name (R64). `op` 0x3, 0x7 and 0xA to 0xF are reserved. -/
def decodeCmd (w : Cmd) : Except Rejection Instr :=
  match opOf w with
  | 0x0#4 => .ok .crcClr
  | 0x1#4 => .ok (.crcUpd (dinOf w))
  | 0x2#4 => .ok .crcRd
  | 0x4#4 => .ok .encSof
  | 0x5#4 => .ok (.encByte (dinOf w))
  | 0x6#4 => .ok .encEof
  | 0x8#4 => .ok (.decByte (dinOf w))
  | 0x9#4 => .ok .decRst
  | _ => .error (.reservedOp w)

/-! ### Wire symbols -/

/-- The eight wire symbols of R66, with the byte where the symbol leaves it open. -/
inductive Symbol where
  /-- `SYM.START`. -/
  | start
  /-- `SYM.END`. -/
  | stop
  /-- `SYM.ESC`. -/
  | esc
  /-- `SYM.DATA`, the byte standing for itself. -/
  | data (b : Byte)
  /-- `SYM.ESC_START`. -/
  | escStart
  /-- `SYM.ESC_END`. -/
  | escEnd
  /-- `SYM.ESC_ESC`. -/
  | escEsc
  /-- `SYM.ESC_BAD` with its code byte. -/
  | escBad (code : Byte)
deriving DecidableEq, Repr

/-- R66: the symbol of the byte `b` when the flag `esc` has the given value. Total: every pair has exactly one symbol. -/
def classify (esc : Bool) (b : Byte) : Symbol :=
  if esc then
    if b = Config.ksf.escStart then .escStart
    else if b = Config.ksf.escEnd then .escEnd
    else if b = Config.ksf.escEsc then .escEsc
    else .escBad b
  else
    if b = Config.ksf.start then .start
    else if b = Config.ksf.stop then .stop
    else if b = Config.ksf.esc then .esc
    else .data b

/-- The operation that a wire symbol is (one row of the table each). -/
def Symbol.toInstr : Symbol → Instr
  | .start => .symStart
  | .stop => .symEnd
  | .esc => .symEsc
  | .data b => .symData b
  | .escStart => .symEscStart
  | .escEnd => .symEscEnd
  | .escEsc => .symEscEsc
  | .escBad c => .symEscBad c

/-! ### One input of the block -/

/-- What the block does with its next input when the flag `esc` has the given value: a command word by `decodeCmd`, a wire
byte by `classify`. -/
def decodeInput (esc : Bool) : Input → Except Rejection Instr
  | .cmd w => decodeCmd w
  | .wire b => .ok (classify esc b).toInstr

/-! ### Whole operations, and the opcode table's numbering -/

/-- The operation that a whole encoding is, read with no escape pending: one command word, one wire byte (format `W1`), or an
ESC and its code byte (format `W2`, R68, R73). -/
def decodeWhole : List Input → Option Instr
  | [x] => (decodeInput false x).toOption
  | [.wire p, .wire c] =>
    match classify false p with
    | .esc => (decodeInput true (.wire c)).toOption
    | _ => none
  | _ => none

/-- A word of spec/opcode_table.json as the block meets it (R79): 8 bits are one wire byte; 16 bits whose four highest are zero
are a `CMD12` word of 12 bits; other 16 bits are two wire bytes, the first in bits 15..8. Nothing else is a row's width. -/
def layOut (nbits w : Nat) : List Input :=
  if nbits ≤ Config.ksf.symW then
    if w < 2 ^ Config.ksf.symW then [.wire (BitVec.ofNat 8 w)] else []
  else if nbits ≤ 2 * Config.ksf.symW then
    if w < 2 ^ Config.ksf.cmdW then [.cmd (BitVec.ofNat 12 w)]
    else if w < 2 ^ 16 then [.wire (BitVec.ofNat 8 (w / 2 ^ 8)), .wire (BitVec.ofNat 8 (w % 2 ^ 8))]
    else []
  else []

/-- The operation the decoder reads from a word of the opcode table. -/
def decodeTableWord (nbits w : Nat) : Option Instr := decodeWhole (layOut nbits w)

/-! ### The encoder -/

/-- A command word from its two fields (R61). -/
def cmdWord (op : BitVec 4) (din : Byte) : Cmd := op ++ din

/-- The canonical spelling of a well-formed operation (R62, R63: unused operand bits are zero; R67, R68). -/
def encode : Instr → List Input
  | .crcClr => [.cmd (cmdWord 0x0 0x00)]
  | .crcUpd d => [.cmd (cmdWord 0x1 d)]
  | .crcRd => [.cmd (cmdWord 0x2 0x00)]
  | .encSof => [.cmd (cmdWord 0x4 0x00)]
  | .encByte d => [.cmd (cmdWord 0x5 d)]
  | .encEof => [.cmd (cmdWord 0x6 0x00)]
  | .decByte d => [.cmd (cmdWord 0x8 d)]
  | .decRst => [.cmd (cmdWord 0x9 0x00)]
  | .symStart => [.wire Config.ksf.start]
  | .symEnd => [.wire Config.ksf.stop]
  | .symEsc => [.wire Config.ksf.esc]
  | .symData b => [.wire b]
  | .symEscStart => [.wire Config.ksf.esc, .wire Config.ksf.escStart]
  | .symEscEnd => [.wire Config.ksf.esc, .wire Config.ksf.escEnd]
  | .symEscEsc => [.wire Config.ksf.esc, .wire Config.ksf.escEsc]
  | .symEscBad c => [.wire Config.ksf.esc, .wire c]

/-- The operation is one of the eight that a command word selects (R60). -/
def Instr.isCommand : Instr → Bool
  | .crcClr | .crcUpd _ | .crcRd | .encSof | .encByte _ | .encEof | .decByte _ | .decRst => true
  | .symStart | .symEnd | .symEsc | .symData _ | .symEscStart | .symEscEnd | .symEscEsc | .symEscBad _ => false

end Sys2Proof
end

