-- ==== Sys2Proof/Machine/State.lean ====
section
/-! DEFINITION. The state of the block (spec/10_state.md): the three registers of R20, the outputs of the operation that ran
last, and the operations the host has issued that have not run. -/

namespace Sys2Proof.Machine

/-- An event of the decoder (spec/00_scope.md R15): a value an operation returns. -/
inductive Event where
  /-- `None`. -/
  | none
  /-- `Frame(f)`: one whole decoded frame. -/
  | frame (f : List Byte)
  /-- `FramingError`: an ESC followed by a byte that is no mapped code (R243); it carries nothing. -/
  | framingError
deriving DecidableEq, Repr

/-- The outputs one operation returns (R15, R26, R28, R47). They are not registers of the block: no operation reads them, and
every operation replaces all of them. They stand in `State` so that a step can show them; log entry 1. -/
structure Outputs where
  /-- `out`: the bytes on the data output, first element first; 0, 1 or 2 of them. -/
  out : List Byte
  /-- `q`: the 16-bit value output, or nothing when the operation does not set it (R34). -/
  q : Option Word
  /-- `ev`: the event output. -/
  ev : Event
  /-- `IllegalOp`: the command word that selected no operation (R64, R241), or nothing. -/
  illegal : Option Cmd
deriving DecidableEq, Repr

/-- The outputs of an operation that mentions none (R15). -/
def Outputs.empty : Outputs := ⟨[], none, .none, none⟩

/-- The state of the block. -/
structure State where
  /-- `crc`, 16 bits: the remainder of the bytes absorbed since the last clear (R20, R21). -/
  crc : Word
  /-- `esc`, 1 bit: the last byte consumed was an unescaped ESC whose second byte has not arrived (R20, R22). -/
  esc : Bool
  /-- `buf`, a byte sequence of no bounded length: the unescaped bytes since the last boundary (R20, R23). -/
  buf : List Byte
  /-- MODEL: the outputs of the operation that ran last (R15, R26; log entry 1). -/
  outs : Outputs
  /-- MODEL: what the host has issued and the block has not yet run, the next one first (R25, D4; log entry 2). -/
  input : List Input
deriving DecidableEq, Repr

/-- Why the machine stops. -/
inductive Fault where
  /-- A DEC.BYTE would make `buf` longer than a finite `BUF_CAP` (spec/93_implementation_defined.md U1). Raised by `pushData`.
  Safe: the spec gives such a step no successor. With this hardware's `BUF_CAP` (unbounded, R9) it is never raised. -/
  | bufOverflow
deriving DecidableEq, Repr

/-- Why an operation has no meaning. -/
inductive Refusal where
  /-- The operation has no meaning yet. Safe. Raised by no arm: every operation has its meaning. -/
  | notModelled (mnemonic : String)
deriving DecidableEq, Repr

/-- The state after reset (R34, R271): the decoder in Idle, `crc` at `CRC_INIT`, no outputs; and, the model's own, nothing
issued (log entry 2). -/
def State.reset : State where
  crc := Config.ksf.crcInit
  esc := false
  buf := []
  outs := .empty
  input := []

end Sys2Proof.Machine
end

