-- ==== Sys2Proof/Machine/Flags.lean ====
section
/-! DEFINITION. The one flag, `esc` (spec/10_state.md R22, R26), the classes of decoder state it helps to name (R31), and the
result codes a status port would show (spec/60_exceptions.md R242). -/

namespace Sys2Proof.Machine

/-- The decoder's registers as one value: the pair (`buf`, `esc`) of spec/43_slip_decoder.md. -/
structure DecState where
  /-- `buf` (R23). -/
  buf : List Byte
  /-- `esc` (R22). -/
  esc : Bool
deriving DecidableEq, Repr

/-- The decoder's part of the state. -/
def State.dec (s : State) : DecState := ⟨s.buf, s.esc⟩

/-- R22: the flag after the byte `b` is consumed: set by an unescaped ESC, cleared by whatever byte follows it. -/
def escAfter (esc : Bool) (b : Byte) : Bool := !esc && b == Config.ksf.esc

/-- The classes of decoder state (R31). -/
inductive DecClass where
  /-- No escape pending and nothing accumulated. -/
  | idle
  /-- No escape pending and bytes accumulated. -/
  | accumulating
  /-- An escape pending. -/
  | escape
deriving DecidableEq, Repr

/-- The class of a decoder state (R31). -/
def DecState.classOf (d : DecState) : DecClass :=
  if d.esc then .escape else if d.buf = [] then .idle else .accumulating

/-- The causes of a `CorruptedError` (R244); the first two are the block's, the third only the codec's. -/
inductive CorruptCause where
  /-- Too few bytes. -/
  | truncated
  /-- The checksum differs from the declared one. -/
  | crcMismatch
  /-- The declared payload length exceeds the bytes present. -/
  | length
deriving DecidableEq, Repr

/-- A result of the receive path for one event of the decoder (R186). -/
inductive RxResult where
  /-- `Body(b)`: a frame whose checksum is right, without its checksum. -/
  | body (b : List Byte)
  /-- `FramingError`. -/
  | framingError
  /-- `CorruptedError(cause)`. -/
  | corrupted (cause : CorruptCause)
deriving DecidableEq, Repr

/-- R242: the 3-bit result code of one operation. -/
def Outputs.statusCode (o : Outputs) : BitVec 3 :=
  match o.illegal with
  | some _ => 7
  | none =>
    match o.ev with
    | .none => 0
    | .frame _ => 1
    | .framingError => 2

/-- R242: the 3-bit code of one result of the receive path. The codec's cause `length` is no result of the block. -/
def RxResult.statusCode : RxResult → Option (BitVec 3)
  | .body _ => some 1
  | .framingError => some 2
  | .corrupted .truncated => some 3
  | .corrupted .crcMismatch => some 4
  | .corrupted .length => none

end Sys2Proof.Machine
end

