-- ==== Sys2Proof/Machine/Operands.lean ====
section
/-! DEFINITION. Operand forms: splitting and joining a 16-bit value and two bytes (spec/00_scope.md R13, spec/20_memory.md R40), and
the two escape tables (spec/30_encoding.md R69). -/

namespace Sys2Proof.Machine

/-- `lo8(v) = v[7:0]` (R13). -/
def lo8 (v : Word) : Byte := v.extractLsb' 0 8

/-- `hi8(v) = v[15:8]` (R13). -/
def hi8 (v : Word) : Byte := v.extractLsb' 8 8

/-- `le16(v)`: the low byte first (R13, R40). -/
def le16 (v : Word) : List Byte := [lo8 v, hi8 v]

/-- `u16le([a, b]) = a | (b << 8)` (R13, R40). -/
def u16le (a b : Byte) : Word := a.zeroExtend 16 ||| (b.zeroExtend 16 <<< 8)

/-- The two checksum bytes in wire order (R9 `CRC_BYTE_ORDER`, R40). -/
def checksumBytes (k : Config) (c : Word) : List Byte :=
  match k.crcByteOrder with
  | .littleEndian => le16 c

/-- The checksum that two received bytes declare (R9 `CRC_BYTE_ORDER`, R40). -/
def declaredChecksum (k : Config) (a b : Byte) : Word :=
  match k.crcByteOrder with
  | .littleEndian => u16le a b

/-- `esc_of(b)`: the wire spelling of one data byte (R131). -/
def escOf (b : Byte) : List Byte :=
  if b = Config.ksf.start then [Config.ksf.esc, Config.ksf.escStart]
  else if b = Config.ksf.stop then [Config.ksf.esc, Config.ksf.escEnd]
  else if b = Config.ksf.esc then [Config.ksf.esc, Config.ksf.escEsc]
  else [b]

/-- `unesc(b)`: the data byte that the second byte of an escape pair stands for; `none` is `bad` (R152). -/
def unesc (b : Byte) : Option Byte :=
  if b = Config.ksf.escStart then some Config.ksf.start
  else if b = Config.ksf.escEnd then some Config.ksf.stop
  else if b = Config.ksf.escEsc then some Config.ksf.esc
  else none

end Sys2Proof.Machine
end

