-- ==== Sys2Proof/Machine/Ops.lean ====
section
/-! DEFINITION. The named operations over the registers, shared by the meanings: writing `crc`, the only three accesses to `buf`
that exist (append one byte, clear, emit whole and clear: spec/10_state.md R23, spec/30_encoding.md R81), setting the outputs (spec/00_scope.md
R15), taking an error (spec/60_exceptions.md R251) and taking the host's next input (spec/10_state.md R25). -/

namespace Sys2Proof.Machine

/-- The three outcomes of a step of this machine. -/
abbrev Result := Host.Outcome State Fault Refusal

/-- `crc <- v`. -/
def State.writeCrc (s : State) (v : Word) : State := { s with crc := v }

/-- `buf <- b; esc <- e`. -/
def State.writeDec (s : State) (b : List Byte) (e : Bool) : State := { s with buf := b, esc := e }

/-- Sets all the outputs: those an operation does not mention are empty (R15). -/
def State.report (s : State) (o : Outputs) : State := { s with outs := o }

/-- `out <- bytes`, the other outputs empty. -/
def Outputs.ofBytes (bytes : List Byte) : Outputs := { Outputs.empty with out := bytes }

/-- `q <- v`, the other outputs empty. -/
def Outputs.ofValue (v : Word) : Outputs := { Outputs.empty with q := some v }

/-- `ev <- e`, the other outputs empty. -/
def Outputs.ofEvent (e : Event) : Outputs := { Outputs.empty with ev := e }

/-- `buf ++ [b]` in a buffer of the given capacity; `none` when the byte does not fit (R23, R170; U1). -/
def bufAppend (cap : Option Nat) (buf : List Byte) (b : Byte) : Option (List Byte) :=
  match cap with
  | none => some (buf ++ [b])
  | some n => if buf.length < n then some (buf ++ [b]) else none

/-- `buf <- buf ++ [b]; esc <- 0; ev <- None` (R157 to R160). A finite buffer that is full faults (U1). -/
def pushData (b : Byte) (s : State) : Result :=
  match bufAppend Config.ksf.bufCap s.buf b with
  | some buf => .next ((s.writeDec buf false).report .empty)
  | none => .fault .bufOverflow

/-- `buf <- []; esc <- 0`: the decoder's initial state (R34, R154, R155, R161, R162). -/
def State.clearDec (s : State) : State := s.writeDec [] false

/-- Emits the whole buffer as one frame and clears it (R155, R46). -/
def emitFrame (s : State) : State := s.clearDec.report (.ofEvent (.frame s.buf))

/-! ### Taking an error. There is no vector, no saved register and no mode (R251); there is nothing to return from (R253). -/

/-- Taking a `FramingError` (R161, R251): the accumulated bytes are lost, the decoder is in its initial state, `crc` is
unchanged, and the event is reported. -/
def takeFramingError (s : State) : State := s.clearDec.report (.ofEvent .framingError)

/-- Taking an `IllegalOp` (R64, R241, R251): no register changes and no output is produced; the command word is reported.
Log entry 3. -/
def takeIllegalOp (w : Cmd) (s : State) : State := s.report { Outputs.empty with illegal := some w }

/-- What the machine does with a rejected command word: an error result is an ordinary outcome (R245). -/
def takeRejection : Rejection → State → Result
  | .reservedOp w, s => .next (takeIllegalOp w s)

/-! ### The host's side -/

/-- The host's next input and the state without it; `none` when the host has issued nothing more. -/
def fetch (s : State) : Option (Input × State) :=
  match s.input with
  | [] => none
  | x :: rest => some (x, { s with input := rest })

/-- Between operations the block keeps all its registers (R260) and holds no output (R26). Log entry 4. -/
def idle (s : State) : Result := .next (s.report .empty)

/-- The host issues further operations, after those already issued (R52). -/
def State.issue (s : State) (xs : List Input) : State := { s with input := s.input ++ xs }

/-- The transport delivers a chunk of the incoming wire stream, of any length (R45). -/
def State.deliver (s : State) (chunk : List Byte) : State := s.issue (chunk.map .wire)

/-- A full reset: all three registers at their reset values and no outputs (R270, R273). What the host has issued and the
block has not run is no state of the block and stays. -/
def State.fullReset (s : State) : State := { State.reset with input := s.input }

/-- Places a word of the opcode table so that the next step runs it. A one-byte symbol is decoded with `esc = 0` and the code
byte of a two-byte symbol with `esc = 1`, its ESC already consumed (R67, R68, the table's `context`). Log entry 5. -/
def State.placeWord (s : State) (nbits w : Nat) : State :=
  match layOut nbits w with
  | [.cmd c] => { s with input := .cmd c :: s.input }
  | [.wire b] => { s with esc := false, input := .wire b :: s.input }
  | [.wire p, .wire c] =>
    match classify false p with
    | .esc => { s with esc := true, input := .wire c :: s.input }
    | _ => { s with esc := false, input := .wire p :: .wire c :: s.input }
  | xs => { s with input := xs ++ s.input }

end Sys2Proof.Machine
end

