-- ==== Sys2Proof/Machine/Crc.lean ====
section
/-! DEFINITION. The CRC generator (spec/41_crc.md): the algorithm over a parameter record (R100 to R104, D18), the three operations
CRC.CLR, CRC.UPD, CRC.RD (R105 to R107), and the source-level functions `crc_append` and `crc_check` (R110, R111). -/

namespace Sys2Proof.Machine

/-! ### The algorithm -/

/-- `crc_step_bit(c)`: one shift of the register (R102). -/
def crcStepBit (k : Config) (c : Word) : Word :=
  if c.getLsbD 0 then (c >>> 1) ^^^ k.crcPoly else c >>> 1

/-- `n` shifts of the register. -/
def crcShifts (k : Config) : Nat → Word → Word
  | 0, c => c
  | n + 1, c => crcShifts k n (crcStepBit k c)

/-- The byte as it enters a right-shifting register: as it stands when bytes are absorbed least significant bit first (R42). -/
def crcIn (k : Config) (b : Byte) : Byte := if k.crcRefIn then b else b.reverse

/-- `crc_step_byte(c, b)`: the register after absorbing the byte `b` (R103). -/
def crcStepByte (k : Config) (c : Word) (b : Byte) : Word :=
  crcShifts k 8 (c ^^^ (crcIn k b).zeroExtend 16)

/-- The value delivered from the register (R104, R107): without bit reversal when the output is reflected (R42). -/
def crcOut (k : Config) (c : Word) : Word := (if k.crcRefOut then c else c.reverse) ^^^ k.crcXorOut

/-- The register after absorbing a byte sequence, first element first (R104). -/
def crcAbsorb (k : Config) (c : Word) (s : List Byte) : Word := s.foldl (crcStepByte k) c

/-- `crc16(s)`, the source's `compute(bytes)` (R104). -/
def crc16 (k : Config) (s : List Byte) : Word := crcOut k (crcAbsorb k k.crcInit s)

/-- The table of R108: `T[i] = crc_step_byte(0x0000, i)`. -/
def crcTable (k : Config) (i : Byte) : Word := crcStepByte k 0 i

/-! ### The operations -/

/-- CRC.CLR: `crc <- CRC_INIT` (R105). -/
def execCrcClr (s : State) : Result := .next ((s.writeCrc Config.ksf.crcInit).report .empty)

/-- CRC.UPD: `crc <- crc_step_byte(crc, din)` (R106). -/
def execCrcUpd (din : Byte) (s : State) : Result :=
  .next ((s.writeCrc (crcStepByte Config.ksf s.crc din)).report .empty)

/-- CRC.RD: `q <- crc ^ CRC_XOROUT` (R107). -/
def execCrcRd (s : State) : Result := .next (s.report (.ofValue (crcOut Config.ksf s.crc)))

/-! ### The source-level functions -/

/-- `crc_append(p) = p ++ [lo8(c), hi8(c)]` with `c = crc16(p)` (R110). -/
def crcAppend (k : Config) (p : List Byte) : List Byte := p ++ checksumBytes k (crc16 k p)

/-- A frame split into its body and its last two bytes as the declared checksum; `none` for fewer than 2 bytes (R111). -/
def splitFrame (k : Config) (f : List Byte) : Option (List Byte × Word) :=
  match f.reverse with
  | b :: a :: body => some (body.reverse, declaredChecksum k a b)
  | _ => none

/-- `crc_check(f)`: the body, or the cause of the `CorruptedError` (R111). -/
def crcCheck (k : Config) (f : List Byte) : Except CorruptCause (List Byte) :=
  match splitFrame k f with
  | none => .error .truncated
  | some (body, declared) => if crc16 k body = declared then .ok body else .error .crcMismatch

end Sys2Proof.Machine
end

