-- ==== Sys2Proof/Machine/Sym.lean ====
section
/-! DEFINITION. The decoder's rule for each wire symbol (spec/43_slip_decoder.md R154 to R161), one definition each. A symbol's
context (its value of `esc`) is part of its decoding (spec/30_encoding.md R66), not of its rule; log entry 5. -/

namespace Sys2Proof.Machine

/-- SYM.START: a boundary; what was accumulated is dropped, without an event (R154). -/
def execSymStart (s : State) : Result := .next (s.clearDec.report .empty)

/-- SYM.END: emits the whole buffer, also an empty one, and clears it (R155). -/
def execSymEnd (s : State) : Result := .next (emitFrame s)

/-- SYM.ESC: `esc <- 1`; the ESC is not stored (R156). -/
def execSymEsc (s : State) : Result := .next ((s.writeDec s.buf true).report .empty)

/-- SYM.DATA: the byte is accumulated as it stands (R157). -/
def execSymData (byte : Byte) (s : State) : Result := pushData byte s

/-- SYM.ESC_START: the pair stands for the data byte START (R158). -/
def execSymEscStart (s : State) : Result := pushData Config.ksf.start s

/-- SYM.ESC_END: the pair stands for the data byte END (R159). -/
def execSymEscEnd (s : State) : Result := pushData Config.ksf.stop s

/-- SYM.ESC_ESC: the pair stands for the data byte ESC (R160). -/
def execSymEscEsc (s : State) : Result := pushData Config.ksf.esc s

/-- SYM.ESC_BAD: the decoder takes a `FramingError`; the code byte is consumed and not classified again (R161). -/
def execSymEscBad (_code : Byte) (s : State) : Result := .next (takeFramingError s)

end Sys2Proof.Machine
end

