-- ==== Sys2Proof/Machine/Dec.lean ====
section
/-! DEFINITION. The SLIP decoder's operations (spec/43_slip_decoder.md): DEC.BYTE (R153), DEC.RST (R162), and the source-level functions
`dec_step` (R163) and `dec_feed` (R164), which are the decoder alone, with the unbounded buffer of R170. -/

namespace Sys2Proof.Machine

/-- DEC.BYTE: classifies (`esc`, `din`) into one wire symbol and performs that symbol's rule (R153). -/
def execDecByte (din : Byte) (s : State) : Result :=
  match classify s.esc din with
  | .start => execSymStart s
  | .stop => execSymEnd s
  | .esc => execSymEsc s
  | .data b => execSymData b s
  | .escStart => execSymEscStart s
  | .escEnd => execSymEscEnd s
  | .escEsc => execSymEscEsc s
  | .escBad c => execSymEscBad c s

/-- DEC.RST: `buf <- []; esc <- 0`, no output (R162). -/
def execDecRst (s : State) : Result := .next (s.clearDec.report .empty)

/-- `dec_step((buf, esc), b)`: the transition table of R163. -/
def decStep (d : DecState) (b : Byte) : DecState × Event :=
  match classify d.esc b with
  | .start => (⟨[], false⟩, .none)
  | .stop => (⟨[], false⟩, .frame d.buf)
  | .esc => (⟨d.buf, true⟩, .none)
  | .data x => (⟨d.buf ++ [x], false⟩, .none)
  | .escStart => (⟨d.buf ++ [Config.ksf.start], false⟩, .none)
  | .escEnd => (⟨d.buf ++ [Config.ksf.stop], false⟩, .none)
  | .escEsc => (⟨d.buf ++ [Config.ksf.esc], false⟩, .none)
  | .escBad _ => (⟨[], false⟩, .framingError)

/-- An event as an element of an event list: `None` is left out (R164). -/
def Event.toList : Event → List Event
  | .none => []
  | .frame f => [.frame f]
  | .framingError => [.framingError]

/-- `dec_feed(st, chunk)`: the decoder's state and event list after a chunk (R164). -/
def decFeed (d : DecState) : List Byte → DecState × List Event
  | [] => (d, [])
  | b :: rest =>
    let st := decStep d b
    let r := decFeed st.1 rest
    (r.1, st.2.toList ++ r.2)

end Sys2Proof.Machine
end

