-- ==== Sys2Proof/Machine/Enc.lean ====
section
/-! DEFINITION. The SLIP encoder (spec/42_slip_encoder.md): ENC.SOF, ENC.BYTE, ENC.EOF (R132 to R134) and the source-level function
`slip_encode` (R136). The encoder reads and writes no register (R135, R137). -/

namespace Sys2Proof.Machine

/-- ENC.SOF: `out <- [START]` (R132). -/
def execEncSof (s : State) : Result := .next (s.report (.ofBytes [Config.ksf.start]))

/-- ENC.BYTE: `out <- esc_of(din)` (R133). -/
def execEncByte (din : Byte) (s : State) : Result := .next (s.report (.ofBytes (escOf din)))

/-- ENC.EOF: `out <- [END]` (R134). -/
def execEncEof (s : State) : Result := .next (s.report (.ofBytes [Config.ksf.stop]))

/-- `slip_encode(s)`, the source's `encode` (R136). -/
def slipEncode (s : List Byte) : List Byte := Config.ksf.start :: s.flatMap escOf ++ [Config.ksf.stop]

end Sys2Proof.Machine
end

