-- ==== Sys2Proof/Machine/Dispatch.lean ====
section
/-! DEFINITION. One arm for each operation of spec/opcode_table.json. -/

namespace Sys2Proof.Machine

def exec (i : Instr) (s : State) : Host.Outcome State Fault Refusal :=
  match i with
  -- The CRC generator (spec/41_crc.md)
  | .crcClr => Sys2Proof.Machine.execCrcClr s
  | .crcUpd din => Sys2Proof.Machine.execCrcUpd din s
  | .crcRd => Sys2Proof.Machine.execCrcRd s
  -- The SLIP encoder (spec/42_slip_encoder.md)
  | .encSof => Sys2Proof.Machine.execEncSof s
  | .encByte din => Sys2Proof.Machine.execEncByte din s
  | .encEof => Sys2Proof.Machine.execEncEof s
  -- The SLIP decoder (spec/43_slip_decoder.md)
  | .decByte din => Sys2Proof.Machine.execDecByte din s
  | .decRst => Sys2Proof.Machine.execDecRst s
  -- The wire symbols (spec/30_encoding.md R66)
  | .symStart => Sys2Proof.Machine.execSymStart s
  | .symEnd => Sys2Proof.Machine.execSymEnd s
  | .symEsc => Sys2Proof.Machine.execSymEsc s
  | .symData byte => Sys2Proof.Machine.execSymData byte s
  | .symEscStart => Sys2Proof.Machine.execSymEscStart s
  | .symEscEnd => Sys2Proof.Machine.execSymEscEnd s
  | .symEscEsc => Sys2Proof.Machine.execSymEscEsc s
  | .symEscBad code => Sys2Proof.Machine.execSymEscBad code s

end Sys2Proof.Machine
end

