-- ==== Sys2Proof/Machine/Step.lean ====
section
/-! DEFINITION. One step of the machine: it takes the host's next input, decodes it, and runs the operation (spec/10_state.md R25,
spec/20_memory.md R48, R52). A reserved command word is an `IllegalOp` (spec/30_encoding.md R64). -/

namespace Sys2Proof.Machine

/-- One step: one accepted operation (spec/00_scope.md R8). With nothing issued the block is idle. -/
def step (s : State) : Host.Outcome State Fault Refusal :=
  match fetch s with
  | none => idle s
  | some (x, s₁) =>
    match decodeInput s₁.esc x with
    | .ok i => exec i s₁
    | .error r => takeRejection r s₁

/-- `s` with a word of the opcode table placed so that the very next step runs it. -/
def State.withFetchWord (s : State) (nbits w : Nat) : State := s.placeWord nbits w

end Sys2Proof.Machine
end

