-- ==== Sys2Proof/Machine/Pipeline.lean ====
section
/-! DEFINITION. The composites (spec/30_encoding.md R75), twice: as the source-level functions `tx_send` and `rx_feed` of
spec/44_pipeline.md, and as the sequences of primitive operations that a host issues (the `host…` definitions), each run
operation by operation on the machine. No new operation and no new state (44_pipeline.md). -/

namespace Sys2Proof.Machine

/-! ### The functions -/

/-- `tx_send(p) = slip_encode(crc_append(p))` (R181). -/
def txSend (p : List Byte) : List Byte := slipEncode (crcAppend Config.ksf p)

/-- The CRC check of one frame as a receive result (R186, `rx_result` of `Frame(f)`). -/
def checkResult (f : List Byte) : RxResult :=
  match crcCheck Config.ksf f with
  | .ok body => .body body
  | .error cause => .corrupted cause

/-- The receive result of an event of the decoder; `None` has none (R186). -/
def rxResult : Event → List RxResult
  | .none => []
  | .frame f => [checkResult f]
  | .framingError => [.framingError]

/-- `rx_feed(st, chunk)` (R186): `dec_feed`, each event through the CRC check, in order. -/
def rxFeed (d : DecState) (chunk : List Byte) : DecState × List RxResult :=
  let r := decFeed d chunk
  (r.1, r.2.flatMap rxResult)

/-! ### A host that issues operations -/

/-- What a host computes while it drives the block: the state it leaves and a value; or a stop. -/
abbrev HostRun (α : Type) := Host.Outcome (State × α) Fault Refusal

/-- The host goes on with what it has so far. -/
def HostRun.andThen {α β : Type} (r : HostRun α) (f : State → α → HostRun β) : HostRun β :=
  match r with
  | .next (s, a) => f s a
  | .fault e => .fault e
  | .refused e => .refused e

/-- The host issues one operation and takes its outputs when it returns (R26, R284). -/
def issueOp (i : Instr) (s : State) : HostRun Outputs :=
  match exec i s with
  | .next s' => .next (s', s'.outs)
  | .fault e => .fault e
  | .refused e => .refused e

/-- The host issues operations one after another and keeps the outputs of each, in order (R52, R282). -/
def issueAll : List Instr → State → HostRun (List Outputs)
  | [], s => .next (s, [])
  | i :: is, s => (issueOp i s).andThen fun s₁ o => (issueAll is s₁).andThen fun s₂ os => .next (s₂, o :: os)

/-- The concatenation of the `out` values (R136). -/
def wireOf (os : List Outputs) : List Byte := os.flatMap Outputs.out

/-- The events other than `None`, in order (R164). -/
def eventsOf (os : List Outputs) : List Event := os.flatMap fun o => o.ev.toList

/-- CRC.RD, and the value it returned. -/
def hostReadCrc (s : State) : HostRun Word :=
  (issueOp .crcRd s).andThen fun s₁ o => .next (s₁, o.q.getD 0)

/-- CRC.COMPUTE `s`: CRC.CLR; CRC.UPD of each byte; CRC.RD (R109). -/
def hostCrcCompute (bytes : List Byte) (s : State) : HostRun Word :=
  (issueAll (.crcClr :: bytes.map .crcUpd) s).andThen fun s₁ _ => hostReadCrc s₁

/-- CRC.APPEND `p` (R110). -/
def hostCrcAppend (p : List Byte) (s : State) : HostRun (List Byte) :=
  (hostCrcCompute p s).andThen fun s₁ c => .next (s₁, p ++ checksumBytes Config.ksf c)

/-- CRC.CHECK `f` (R111, R113): no operation is issued for fewer than 2 bytes; the host compares. -/
def hostCrcCheck (f : List Byte) (s : State) : HostRun RxResult :=
  match splitFrame Config.ksf f with
  | none => .next (s, .corrupted .truncated)
  | some (body, declared) =>
    (hostCrcCompute body s).andThen fun s₁ c =>
      .next (s₁, if c = declared then .body body else .corrupted .crcMismatch)

/-- The operations of SLIP.ENCODE `s`: ENC.SOF; ENC.BYTE of each byte; ENC.EOF (R136). -/
def slipEncodeOps (bytes : List Byte) : List Instr := .encSof :: bytes.map .encByte ++ [.encEof]

/-- SLIP.ENCODE `s` (R136). -/
def hostSlipEncode (bytes : List Byte) (s : State) : HostRun (List Byte) :=
  (issueAll (slipEncodeOps bytes) s).andThen fun s₁ os => .next (s₁, wireOf os)

/-- DEC.FEED `chunk`: DEC.BYTE of each byte (R164). -/
def hostDecFeed (chunk : List Byte) (s : State) : HostRun (List Event) :=
  (issueAll (chunk.map .decByte) s).andThen fun s₁ os => .next (s₁, eventsOf os)

/-- The operations of TX.SEND `p` up to its CRC.RD, in the one-pass form of R181. -/
def txSendFirstOps (p : List Byte) : List Instr :=
  .crcClr :: .encSof :: p.flatMap fun b => [.crcUpd b, .encByte b]

/-- The operations of TX.SEND after its CRC.RD returned `q`: the two checksum bytes, escaped like data (R183), and ENC.EOF. -/
def txSendLastOps (q : Word) : List Instr := (checksumBytes Config.ksf q).map .encByte ++ [.encEof]

/-- TX.SEND `p` in the one-pass form of R181. -/
def hostTxSend (p : List Byte) (s : State) : HostRun (List Byte) :=
  (issueAll (txSendFirstOps p) s).andThen fun s₁ os₁ =>
    (hostReadCrc s₁).andThen fun s₂ q =>
      (issueAll (txSendLastOps q) s₂).andThen fun s₃ os₂ =>
        .next (s₃, wireOf os₁ ++ wireOf os₂)

/-- The single error path (R189): DEC.RST on a `FramingError` and on a `CorruptedError`; nothing on a `Body`. -/
def hostAfterResult (r : RxResult) (s : State) : HostRun RxResult :=
  match r with
  | .body b => .next (s, .body b)
  | .framingError => (issueOp .decRst s).andThen fun s₁ _ => .next (s₁, .framingError)
  | .corrupted c => (issueOp .decRst s).andThen fun s₁ _ => .next (s₁, .corrupted c)

/-- What the host does with the event of one DEC.BYTE before it issues the next (R186, R284). -/
def hostTakeEvent (e : Event) (s : State) : HostRun (List RxResult) :=
  match e with
  | .none => .next (s, [])
  | .framingError => (hostAfterResult .framingError s).andThen fun s₁ r => .next (s₁, [r])
  | .frame f =>
    (hostCrcCheck f s).andThen fun s₁ r => (hostAfterResult r s₁).andThen fun s₂ r' => .next (s₂, [r'])

/-- RX.FEED `chunk`: for each byte DEC.BYTE, and for each frame its CRC.CHECK before the next byte (R186). -/
def hostRxFeed : List Byte → State → HostRun (List RxResult)
  | [], s => .next (s, [])
  | b :: rest, s =>
    (issueOp (.decByte b) s).andThen fun s₁ o =>
      (hostTakeEvent o.ev s₁).andThen fun s₂ rs =>
        (hostRxFeed rest s₂).andThen fun s₃ more => .next (s₃, rs ++ more)

end Sys2Proof.Machine
end

