-- ==== Sys2Proof/Machine/Codec.lean ====
section
/-! DEFINITION. CONTEXT, no part of the block: the packet codec of spec/45_packet_context.md, the software above the block (spec/00_scope.md
R6), as pure functions. No operation and no state of the block depends on this file. What the source leaves open here is a
constant of Config with no body (log entry 12). -/

namespace Sys2Proof.Machine

/-- The packet types of R205. -/
inductive PacketType where
  /-- 0x00. -/
  | ping
  /-- 0x10. -/
  | radioPhyConfig
  /-- 0x11. -/
  | radioFreqConfig
  /-- 0x12. -/
  | radioLoraConfig
  /-- 0x13. -/
  | radioGfskConfig
  /-- 0x20. -/
  | enterSleepStop2
  /-- 0x40. -/
  | radioGoSleep
  /-- 0x41. -/
  | radioGoIdle
  /-- 0x42. -/
  | radioSend
  /-- 0x43. -/
  | radioRecvStart
  /-- 0x80. -/
  | pong
  /-- 0x83. -/
  | ack
  /-- 0x84. -/
  | nack
  /-- 0xC1. -/
  | radioReceivedPacket
deriving DecidableEq, Repr

/-- The types of R205, in the order of its table. -/
def PacketType.all : List PacketType :=
  [.ping, .radioPhyConfig, .radioFreqConfig, .radioLoraConfig, .radioGfskConfig, .enterSleepStop2, .radioGoSleep,
    .radioGoIdle, .radioSend, .radioRecvStart, .pong, .ack, .nack, .radioReceivedPacket]

/-- The type code (R205). -/
def PacketType.code : PacketType → Byte
  | .ping => 0x00
  | .radioPhyConfig => 0x10
  | .radioFreqConfig => 0x11
  | .radioLoraConfig => 0x12
  | .radioGfskConfig => 0x13
  | .enterSleepStop2 => 0x20
  | .radioGoSleep => 0x40
  | .radioGoIdle => 0x41
  | .radioSend => 0x42
  | .radioRecvStart => 0x43
  | .pong => 0x80
  | .ack => 0x83
  | .nack => 0x84
  | .radioReceivedPacket => 0xC1

/-- The listed type with a given code. -/
def PacketType.ofCode (b : Byte) : Option PacketType := PacketType.all.find? fun t => t.code == b

/-- Direction of travel (R205). -/
inductive Direction where
  /-- Requests, codes 0x00 to 0x43. -/
  | hostToDevice
  /-- Replies, codes 0x80 to 0xC1. -/
  | deviceToHost
deriving DecidableEq, Repr

/-- The direction of a type (R205). -/
def PacketType.direction : PacketType → Direction
  | .pong | .ack | .nack | .radioReceivedPacket => .deviceToHost
  | .ping | .radioPhyConfig | .radioFreqConfig | .radioLoraConfig | .radioGfskConfig => .hostToDevice
  | .enterSleepStop2 | .radioGoSleep | .radioGoIdle | .radioSend | .radioRecvStart => .hostToDevice

/-- The source implements every listed variant but RadioGfskConfig (R205, R206). -/
def PacketType.implemented (t : PacketType) : Bool := t != .radioGfskConfig

/-- The capability of a type, as far as the source states it (R205, R215): nothing for the empty cells of the table. -/
def PacketType.capability : PacketType → Option Capability
  | .radioPhyConfig | .radioFreqConfig | .radioLoraConfig | .enterSleepStop2 | .radioGoSleep => some .sendOnly
  | .radioGoIdle | .radioSend | .radioRecvStart => some .sendOnly
  | .radioReceivedPacket => some .receiveOnly
  | .ping | .pong | .ack | .nack | .radioGfskConfig => none

/-- The capability allows sending. -/
def canSend : Capability → Bool
  | .sendOnly | .both => true
  | .receiveOnly => false

/-- The capability allows receiving. -/
def canReceive : Capability → Bool
  | .receiveOnly | .both => true
  | .sendOnly => false

/-- The capability of a type, a free value where the source does not state it. -/
def PacketType.capabilityOrFree (t : PacketType) : Capability := t.capability.getD (Config.unstatedCapability t.code)

/-- `Sendable` (R215). Ping is sent, whatever else it may be (R185). A type that is not implemented is not sent: DESIGN CHOICE,
log entry 14. -/
def PacketType.sendable (t : PacketType) : Bool := t.implemented && (t == .ping || canSend t.capabilityOrFree)

/-- `Receivable` (R215). -/
def PacketType.receivable (t : PacketType) : Bool := canReceive t.capabilityOrFree

/-! ### Sending -/

/-- Four bytes, little-endian (R209, R211, R214). -/
def le32 (v : BitVec 32) : List Byte :=
  [v.extractLsb' 0 8, v.extractLsb' 8 8, v.extractLsb' 16 8, v.extractLsb' 24 8]

/-- The fields of RadioPhyConfig (R208). -/
structure PhyConfig where
  /-- `paDutyCycle`. -/
  paDutyCycle : Byte
  /-- `hpMax`. -/
  hpMax : Byte
  /-- `paSelect`. -/
  paSelect : Byte
  /-- `txPower`; its signedness is not stated. -/
  txPower : Byte
  /-- `rampTime`. -/
  rampTime : Byte
  /-- `rxBoost`. -/
  rxBoost : Bool
deriving DecidableEq, Repr

/-- The fields of RadioLoraConfig (R210). -/
structure LoraConfig where
  /-- `preambleLen`. -/
  preambleLen : Word
  /-- `fixedHeader`, sent inverted (see `LoraConfig.payload`). -/
  fixedHeader : Bool
  /-- `payloadLen`. -/
  payloadLen : Byte
  /-- `enableCRC`. -/
  enableCRC : Bool
  /-- `invertIQ`. -/
  invertIQ : Bool
  /-- `spreadFactor`. -/
  spreadFactor : Byte
  /-- `bandwidth`. -/
  bandwidth : Byte
  /-- `codingRate`. -/
  codingRate : Byte
  /-- `lowCodingRateOptimize`. -/
  lowCodingRateOptimize : Bool
  /-- The sync word, fitted to 2 bytes. -/
  syncWord : List Byte
deriving DecidableEq, Repr

/-- Two bytes of a word of more than 2 bytes, in their order, at the free positions (R210 "truncated if longer"). -/
def keepTwo (w : List Byte) : List Byte :=
  let i := (Config.syncKept w).1 % (w.length - 1)
  let j := i + 1 + (Config.syncKept w).2 % (w.length - 1 - i)
  [w.getD i 0, w.getD j 0]

/-- The two sync-word bytes (R210, R214): a word of 2 bytes as it stands, a longer one truncated, a shorter one padded. Which
bytes survive, and the side and bytes of the padding, are free values. -/
def syncBytes : List Byte → List Byte
  | [] => [Config.syncPadByte 0, Config.syncPadByte 1]
  | [a] => if Config.syncPadLeft then [Config.syncPadByte 0, a] else [a, Config.syncPadByte 1]
  | [a, b] => [a, b]
  | a :: b :: c :: w => keepTwo (a :: b :: c :: w)

/-- The payload of RadioPhyConfig, 6 bytes (R208). -/
def PhyConfig.payload (c : PhyConfig) : List Byte :=
  [c.paDutyCycle, c.hpMax, c.paSelect, c.txPower, c.rampTime, if c.rxBoost then 1 else 0]

/-- The payload of RadioFreqConfig, 4 bytes (R209). -/
def freqPayload (hz : BitVec 32) : List Byte := le32 hz

/-- The payload of RadioLoraConfig, 12 bytes (R210). What "fixedHeader-inverted" inverts is not given. DESIGN CHOICE (log entry
12): the boolean is negated before it is spelled; its spelling is a free value of its own offset, so no statement can tell this
from an inversion of the byte. -/
def LoraConfig.payload (c : LoraConfig) : List Byte :=
  le16 c.preambleLen ++
    [Config.flagByte 2 (!c.fixedHeader), c.payloadLen, Config.flagByte 4 c.enableCRC, Config.flagByte 5 c.invertIQ,
      c.spreadFactor, c.bandwidth, c.codingRate, Config.flagByte 9 c.lowCodingRateOptimize] ++
    syncBytes c.syncWord

/-- The payload of RadioRecvStart, 4 bytes (R211). -/
def recvStartPayload (ms : BitVec 32) : List Byte := le32 ms

/-- A packet value: one constructor for each implemented variant (R205). RadioGfskConfig, not implemented, has no value. A
variant whose payload layout is not given carries its payload as it stands (log entry 12). -/
inductive Packet where
  /-- Ping, with no payload (R207). -/
  | ping
  /-- RadioPhyConfig (R208). -/
  | radioPhyConfig (c : PhyConfig)
  /-- RadioFreqConfig, the frequency in Hz (R209). -/
  | radioFreqConfig (hz : BitVec 32)
  /-- RadioLoraConfig (R210). -/
  | radioLoraConfig (c : LoraConfig)
  /-- EnterSleepStop2. -/
  | enterSleepStop2 (payload : List Byte)
  /-- RadioGoSleep. -/
  | radioGoSleep (payload : List Byte)
  /-- RadioGoIdle. -/
  | radioGoIdle (payload : List Byte)
  /-- RadioSend, with the payload that the caller supplies separately (R212). -/
  | radioSend (supplied : List Byte)
  /-- RadioRecvStart, the timeout in ms (R211). -/
  | radioRecvStart (ms : BitVec 32)
  /-- Pong. -/
  | pong (payload : List Byte)
  /-- Ack. -/
  | ack (payload : List Byte)
  /-- Nack. -/
  | nack (payload : List Byte)
  /-- RadioReceivedPacket: RSSI, SNR and the radio payload (R213). -/
  | radioReceivedPacket (rssi snr : Int) (payload : List Byte)
deriving DecidableEq, Repr

/-- The type of a packet value. -/
def Packet.type : Packet → PacketType
  | .ping => .ping
  | .radioPhyConfig _ => .radioPhyConfig
  | .radioFreqConfig _ => .radioFreqConfig
  | .radioLoraConfig _ => .radioLoraConfig
  | .enterSleepStop2 _ => .enterSleepStop2
  | .radioGoSleep _ => .radioGoSleep
  | .radioGoIdle _ => .radioGoIdle
  | .radioSend _ => .radioSend
  | .radioRecvStart _ => .radioRecvStart
  | .pong _ => .pong
  | .ack _ => .ack
  | .nack _ => .nack
  | .radioReceivedPacket _ _ _ => .radioReceivedPacket

/-- The length a payload is declared with when the header counts it (R202), and the payload. -/
def counted (payload : List Byte) : Option (Nat × List Byte) := some (payload.length, payload)

/-- The variant's own encoding (R202, R207 to R212): the length that the header declares, and the bytes after the header. The
receive-only variant has none. RadioSend is its empty header only (R212); how a payload that the caller does supply is joined to it
is a free value. -/
def Packet.encoding : Packet → Option (Nat × List Byte)
  | .ping => counted []
  | .radioPhyConfig c => counted c.payload
  | .radioFreqConfig hz => counted (freqPayload hz)
  | .radioLoraConfig c => counted c.payload
  | .enterSleepStop2 payload => counted payload
  | .radioGoSleep payload => counted payload
  | .radioGoIdle payload => counted payload
  | .radioSend [] => counted []
  | .radioSend (b :: supplied) => some ((Config.radioSendParts (b :: supplied)).1.toNat, (Config.radioSendParts (b :: supplied)).2)
  | .radioRecvStart ms => counted (recvStartPayload ms)
  | .pong payload => counted payload
  | .ack payload => counted payload
  | .nack payload => counted payload
  | .radioReceivedPacket _ _ _ => none

/-- `serialize(packet)`: the body (R201, R202). DESIGN CHOICE (log entry 14): a variant that is not `Sendable`, whose sending R255
says is restricted without giving an outcome, gives nothing; so does a payload that the 16-bit length field cannot count
(log entry 12). -/
def serialize (p : Packet) : Option (List Byte) :=
  if p.type.sendable then
    p.encoding.bind fun e => if e.1 < 2 ^ 16 then some (p.type.code :: le16 (BitVec.ofNat 16 e.1) ++ e.2) else none
  else none

/-- The source's exposed `serialize` (R202): the wire frame of a packet. -/
def sendPacket (p : Packet) : Option (List Byte) := (serialize p).map txSend

/-! ### Receiving -/

/-- The codec's errors (R216). That `notDeserializable` carries the packet type is the model's: R241 gives no information for it.
DESIGN CHOICE, log entry 14. -/
inductive CodecError where
  /-- `CorruptedError`. -/
  | corrupted (cause : CorruptCause)
  /-- `TypeError`: the type byte is not in the enumeration. -/
  | type (b : Byte)
  /-- `NotDeserializableError`: the variant is send-only. -/
  | notDeserializable (t : PacketType)
deriving DecidableEq, Repr

/-- The type byte is in the enumeration: listed (R205) or one of the extra codes (U5). -/
def enumerated (k : Config) (b : Byte) : Bool := (PacketType.ofCode b).isSome || k.extraTypes.contains b

/-- `deserializeHeader(body)`: its checks in their order, and the type byte with the payload (R203). -/
def deserializeHeader (k : Config) : List Byte → Except CodecError (Byte × List Byte)
  | type :: lenLo :: lenHi :: rest =>
    if !enumerated k type then .error (.type type)
    else if rest.length < (u16le lenLo lenHi).toNat then .error (.corrupted .length)
    else .ok (type, rest.take (u16le lenLo lenHi).toNat)
  | _ => .error (.corrupted .truncated)

/-- What the codec makes of one body (R204). That `softSkip` carries the type code is the model's: R206 speaks of "a diagnostic" and
R241 gives no information for it. DESIGN CHOICE, log entry 14. -/
inductive CodecResult where
  /-- A typed packet. -/
  | packet (p : Packet)
  /-- Enumerated but not implemented: no packet, and no error (R206). -/
  | softSkip (code : Byte)
  /-- An error. -/
  | error (e : CodecError)
deriving DecidableEq, Repr

/-- The payload of RadioReceivedPacket (R213). A payload shorter than its 4 bytes of signal data is truncated; log entry 13. -/
def receivedPayload : List Byte → CodecResult
  | r0 :: r1 :: s0 :: s1 :: rest => .packet (.radioReceivedPacket (u16le r0 r1).toInt (u16le s0 s1).toInt rest)
  | _ => .error (.corrupted .truncated)

/-- A variant's own deserialize routine (R204): a variant that is not `Receivable` always fails (R215). A Ping has no payload
(R207); the bytes of one that declares some are ignored, DESIGN CHOICE, log entry 15. RadioGfskConfig is not implemented and has no such routine (R206): that it
answers NotDeserializableError here is a DESIGN CHOICE, log entry 14, and `dispatchPacket` never asks it. -/
def deserializeAs (t : PacketType) (payload : List Byte) : CodecResult :=
  if t.receivable then
    match t with
    | .ping => .packet .ping
    | .pong => .packet (.pong payload)
    | .ack => .packet (.ack payload)
    | .nack => .packet (.nack payload)
    | .radioReceivedPacket => receivedPayload payload
    | .radioPhyConfig | .radioFreqConfig | .radioLoraConfig | .radioGfskConfig | .enterSleepStop2 | .radioGoSleep =>
      .error (.notDeserializable t)
    | .radioGoIdle | .radioSend | .radioRecvStart => .error (.notDeserializable t)
  else .error (.notDeserializable t)

/-- The dispatch on an enumerated type (R204, R206, R215, R250 checks 6 and 7). -/
def dispatchPacket (code : Byte) (payload : List Byte) : CodecResult :=
  match PacketType.ofCode code with
  | none => .softSkip code
  | some t => if t.implemented then deserializeAs t payload else .softSkip code

/-- What the codec makes of a `Body` (R204). -/
def deserializeBody (k : Config) (body : List Byte) : CodecResult :=
  match deserializeHeader k body with
  | .error e => .error e
  | .ok (code, payload) => dispatchPacket code payload

/-- `deserialize(frame)`: the CRC check first, then the header, then the dispatch (R204, R188, R250). -/
def deserialize (k : Config) (frame : List Byte) : CodecResult :=
  match crcCheck k frame with
  | .error cause => .error (.corrupted cause)
  | .ok body => deserializeBody k body

/-- A result of the source's `feed` (R186): the decoder's framing error, or what the codec makes of a frame. -/
inductive FeedResult where
  /-- `FramingError`, from the decoder. -/
  | framingError
  /-- A frame's result. -/
  | codec (r : CodecResult)
deriving DecidableEq, Repr

/-- What becomes of one receive result of the block (R186, R204). -/
def feedResult (k : Config) : RxResult → FeedResult
  | .framingError => .framingError
  | .corrupted cause => .codec (.error (.corrupted cause))
  | .body b => .codec (deserializeBody k b)

/-- The source's `feed(chunk)` (R186): the block's RX.FEED, each result through the codec. -/
def feed (k : Config) (d : DecState) (chunk : List Byte) : DecState × List FeedResult :=
  let r := rxFeed d chunk
  (r.1, r.2.map (feedResult k))

end Sys2Proof.Machine
end

