-- ==== Sys2Proof/Safety.lean ====
section
/-! DEFINITION. What claims call a safe run, and the condition on outputs that every step establishes. -/

namespace Sys2Proof.Machine

/-- No stop within `n` steps: no error stops the block (spec/60_exceptions.md R245). -/
def SafeRun (n : Nat) (s : State) : Prop := ∃ s', Sys2Proof.core.run n s = .next s'

/-- How many unescaped END bytes a decoder whose flag is `esc` consumes in a chunk (spec/43_slip_decoder.md R164). -/
def unescapedEnds (esc : Bool) : List Byte → Nat
  | [] => 0
  | b :: rest => (if !esc && b == Config.ksf.stop then 1 else 0) + unescapedEnds (escAfter esc b) rest

/-- An event is a frame. -/
def Event.isFrame : Event → Bool
  | .frame _ => true
  | .none | .framingError => false

/-- `crc` after the frames of an event list have been checked in order (spec/41_crc.md R113): the checksum of the last body
checked; a frame of fewer than 2 bytes issues no operation. -/
def crcAfterChecks (c : Word) (events : List Event) : Word :=
  events.foldl
    (fun r e =>
      match e with
      | .frame f =>
        match splitFrame Config.ksf f with
        | some (body, _) => crc16 Config.ksf body
        | none => r
      | .none | .framingError => r)
    c

/-- The bit `i` of a byte sequence inverted, bit 0 the least significant bit of the first byte (spec/41_crc.md R115). -/
def flipBit (f : List Byte) (i : Nat) : List Byte := f.modify (i / 8) fun b => b ^^^ (1#8 <<< (i % 8))

/-- The outputs agree with the registers (spec/20_memory.md R46, R47; spec/43_slip_decoder.md R155, R161; spec/60_exceptions.md R251):
at most 2 bytes on `out`; a value on `q` is the checksum in `crc`; a frame or a framing error leaves the decoder in its initial
state; and an operation sets at most one of the outputs. -/
structure OutputsAgree (s : State) : Prop where
  /-- R47: `out` holds 0, 1 or 2 bytes. -/
  out_length : s.outs.out.length ≤ 2
  /-- R107: `q` is the checksum, and reading it changes nothing. -/
  q_is_crc : ∀ v, s.outs.q = some v → v = s.crc
  /-- R155, R161, R251: after an event the decoder is in its initial state. -/
  event_resets : s.outs.ev ≠ .none → s.buf = [] ∧ s.esc = false
  /-- R64, R251: an `IllegalOp` comes with no output. -/
  illegal_alone : s.outs.illegal ≠ none → s.outs.out = [] ∧ s.outs.q = none ∧ s.outs.ev = .none
  /-- R36: no operation sets two outputs. -/
  one_output : (s.outs.out = [] ∨ (s.outs.q = none ∧ s.outs.ev = .none)) ∧ (s.outs.q = none ∨ s.outs.ev = .none)

end Sys2Proof.Machine
end

