-- ==== Sys2Proof/Certificates/Slice0/Obligations.lean ====
section
/-! DEFINITION. The statements for the provers. Each formalises what the docstring says; the spec's own decisions (D<n>), its
general-knowledge passages (GK<n>) and the model's log entries it rests on are named there. -/

open Sys2Proof Sys2Proof.Machine

/-- After reset buf is empty, esc is 0, the decoder is Idle and crc is 0x0000; no output is set. That crc is 0x0000 is the
spec's decision D7; that the outputs and the issued operations stand in State is the model's choice (log entries 1 and
2). (Derived: 10_state.md section 7 (reset table), 92_eei_decisions.md D7.) -/
def Obligations.ResetLeavesTheBlockClear : Prop :=
  State.reset.buf = [] ∧ State.reset.esc = false ∧ State.reset.crc = 0x0000#16 ∧
    State.reset.outs = ⟨[], none, .none, none⟩ ∧ State.reset.input = [] ∧ State.reset.dec.classOf = .idle

/-- From every state: a full reset leaves buf empty, esc 0 and crc 0; DEC.RST leaves buf empty and esc 0 and keeps crc;
CRC.CLR leaves crc 0 and keeps buf and esc. The 0x0000 of crc rests on decision D7 and GK1. (Derived:
70_reset_and_hazards.md section 1 (three resets), 41_crc.md section 2 (CRC.CLR), 43_slip_decoder.md section 3
(DEC.RST).) -/
def Obligations.ThreeResetsReachDifferentRegisters : Prop :=
  ∀ s : State,
    (s.fullReset.buf = [] ∧ s.fullReset.esc = false ∧ s.fullReset.crc = 0x0000#16) ∧
    (∃ t, exec .decRst s = .next t ∧ t.buf = [] ∧ t.esc = false ∧ t.crc = s.crc) ∧
    (∃ t, exec .crcClr s = .next t ∧ t.crc = 0x0000#16 ∧ t.buf = s.buf ∧ t.esc = s.esc)

/-- When the next input decodes, with the flag esc as it is, to the operation i, the step is exec of i at the state
without that input. (Derived: 10_state.md section 2 (no program counter, D4), 20_memory.md section 5 (ordering).) -/
def Obligations.StepRunsTheDecodedOperation : Prop :=
  ∀ (s : State) (x : Input) (rest : List Input) (i : Instr),
    s.input = x :: rest → decodeInput s.esc x = .ok i → step s = exec i { s with input := rest }

/-- When the host has issued nothing, the step keeps crc, esc and buf, and leaves the outputs empty. That an idle step
exists at all is the model's choice, log entry 4. (Derived: 60_exceptions.md section 7 (no power states), 10_state.md
section 3 (outputs are not held).) -/
def Obligations.IdleStepKeepsRegisters : Prop :=
  ∀ s : State, s.input = [] → step s = .next { s with outs := ⟨[], none, .none, none⟩ }

/-- From every state a step answers a next state, in which the input it took is gone and all later ones are untouched; so
no run of any length faults or is refused. With the reserved command words this rests on the reading of log entry 3;
that a step exists with nothing issued, so that a run goes on past the issued inputs, is log entry 4; that a step
takes its input from a list in the state is D4 and log entry 2. (Derived: 60_exceptions.md section 1 (no error stops
the block), 10_state.md section 2 (D4), 43_slip_decoder.md section 6 (progress), 30_encoding.md section 2 (D8).) -/
def Obligations.EveryStepCompletes : Prop :=
  (∀ s : State, ∃ t, step s = .next t ∧ t.input = s.input.tail) ∧ ∀ (n : Nat) (s : State), SafeRun n s

/-- For every 12-bit word: masked with 0xF00 it equals a row's match and selects that row's operation, with din the low 8
bits where the operation has an operand and ignored elsewhere; with any of the eight reserved op codes it is rejected
by name. The encoding is the spec's decision D2. (Derived: 30_encoding.md section 2 (CMD12), 92_eei_decisions.md D2,
92_eei_decisions.md D8.) -/
def Obligations.CommandWordSelectsTheTableRow : Prop :=
  ∀ w : Cmd,
    (w &&& 0xF00 = 0x000 → decodeCmd w = .ok .crcClr) ∧
    (w &&& 0xF00 = 0x100 → decodeCmd w = .ok (.crcUpd (w.setWidth 8))) ∧
    (w &&& 0xF00 = 0x200 → decodeCmd w = .ok .crcRd) ∧
    (w &&& 0xF00 = 0x400 → decodeCmd w = .ok .encSof) ∧
    (w &&& 0xF00 = 0x500 → decodeCmd w = .ok (.encByte (w.setWidth 8))) ∧
    (w &&& 0xF00 = 0x600 → decodeCmd w = .ok .encEof) ∧
    (w &&& 0xF00 = 0x800 → decodeCmd w = .ok (.decByte (w.setWidth 8))) ∧
    (w &&& 0xF00 = 0x900 → decodeCmd w = .ok .decRst) ∧
    (w &&& 0xF00 ∈ [0x300#12, 0x700#12, 0xA00#12, 0xB00#12, 0xC00#12, 0xD00#12, 0xE00#12, 0xF00#12] →
      decodeCmd w = .error (.reservedOp w))

/-- With esc = 0 the bytes 0xA5, 0xC0, 0xDB are START, END, ESC and each of the 253 others is DATA; with esc = 1 the bytes
0xDE, 0xDC, 0xDD are ESC_START, ESC_END, ESC_ESC and each of the 253 others is ESC_BAD. (Stated: R66.) -/
def Obligations.WireByteHasExactlyOneSymbol : Prop :=
  (∀ b : Byte, classify false b =
      if b = 0xA5 then .start else if b = 0xC0 then .stop else if b = 0xDB then .esc else .data b) ∧
    (∀ b : Byte, classify true b =
      if b = 0xDE then .escStart else if b = 0xDC then .escEnd else if b = 0xDD then .escEsc else .escBad b) ∧
    (List.range 256).countP (fun n => classify false (BitVec.ofNat 8 n) = .data (BitVec.ofNat 8 n)) = 253 ∧
    (List.range 256).countP (fun n => classify true (BitVec.ofNat 8 n) = .escBad (BitVec.ofNat 8 n)) = 253

/-- Command words and wire symbols written out bit by bit from the tables, numbered as the opcode table numbers them,
decode to their operations; a reserved word decodes to none. The command words are decision D2. That a table word of
16 bits whose four highest are zero is a command word of 12 bits is log entry 10 (DEDUCED); that a two-byte word is
read from its first byte with no escape pending is log entry 5 (DEDUCED). (Derived: 30_encoding.md section 2 (D2),
30_encoding.md section 3 (W1, W2), 30_encoding.md section 6 (R79, the numbering of opcode_table.json),
95_test_vectors.md section 3.1.) -/
def Obligations.DecodedWordsAreTheSpecs : Prop :=
  decodeTableWord 16 0b0000_0001_0011_0001 = some (.crcUpd 0x31) ∧
    decodeTableWord 16 0b0000_0010_1111_1111 = some .crcRd ∧
    decodeTableWord 16 0b0000_0101_1010_0101 = some (.encByte 0xA5) ∧
    decodeTableWord 16 0b0000_1000_1100_0000 = some (.decByte 0xC0) ∧
    decodeTableWord 16 0b0000_1001_0000_0000 = some .decRst ∧
    decodeTableWord 16 0b0000_0011_0000_0000 = none ∧
    decodeTableWord 8 0b1010_0101 = some .symStart ∧
    decodeTableWord 8 0b1101_1110 = some (.symData 0xDE) ∧
    decodeTableWord 16 0b1101_1011_1101_1110 = some .symEscStart ∧
    decodeTableWord 16 0b1101_1011_1100_0000 = some (.symEscBad 0xC0)

/-- For every well-formed operation, with every operand value: its encoding, read whole with no escape pending, decodes to
it. The command encoding is the spec's decision D2. (Derived: 30_encoding.md sections 2 and 3 (CMD12, W1, W2),
92_eei_decisions.md D2.) -/
def Obligations.EncodeThenDecodeReturnsTheOperation : Prop :=
  ∀ i : Instr, i.wellFormed = true → decodeWhole (encode i) = some i

/-- In either value of esc, an input that decodes gives a well-formed operation; and a command word that decodes to i is
spelled by encode i with the same op field, and with the same din for the three operations that have an operand.
(Derived: 30_encoding.md section 3 (default rows), 30_encoding.md section 2.) -/
def Obligations.DecodedOperationIsWellFormed : Prop :=
  (∀ (esc : Bool) (x : Input) (i : Instr), decodeInput esc x = .ok i → i.wellFormed = true) ∧
    ∀ (w : Cmd) (i : Instr), decodeCmd w = .ok i →
      ∃ v, encode i = [.cmd v] ∧ v &&& 0xF00 = w &&& 0xF00 ∧
        (w &&& 0xF00 ∈ [0x100#12, 0x500#12, 0x800#12] → v = w)

/-- A command word with one of the eight reserved op codes is consumed; crc, esc and buf keep their values, out, q and ev
are empty, and IllegalOp carries the word. That the outcome is a next state is log entry 3; the outcome is decision
D8. (Derived: 30_encoding.md section 2 (D8), 60_exceptions.md section 4 (entry), 95_test_vectors.md P5.) -/
def Obligations.ReservedCommandReportsIllegalOpAndChangesNothing : Prop :=
  ∀ (s : State) (w : Cmd) (rest : List Input), s.input = .cmd w :: rest →
    w &&& 0xF00 ∈ [0x300#12, 0x700#12, 0xA00#12, 0xB00#12, 0xC00#12, 0xD00#12, 0xE00#12, 0xF00#12] →
    step s = .next { s with input := rest, outs := ⟨[], none, .none, some w⟩ }

/-- From every state CRC.CLR answers the state with crc = 0x0000, no outputs, and esc, buf and the issued operations
unchanged (decision D3, value GK1). (Derived: 41_crc.md section 2 (CRC.CLR), 92_eei_decisions.md D3,
93_implementation_defined.md GK1.) -/
def Obligations.CrcClrClearsTheRemainder : Prop :=
  ∀ s : State, exec .crcClr s = .next { s with crc := 0x0000, outs := ⟨[], none, .none, none⟩ }

/-- From every state and for every byte CRC.UPD answers the state whose crc is the old crc XOR din after eight bit steps,
each a right shift followed by XOR with 0x8408 when a 1 was shifted out; no outputs, and nothing else changes
(algorithm GK1). (Derived: 41_crc.md sections 1 and 2 (CRC.UPD), 92_eei_decisions.md D3, 93_implementation_defined.md
GK1.) -/
def Obligations.CrcUpdAbsorbsTheByteInEightShifts : Prop :=
  ∀ (s : State) (din : Byte),
    exec (.crcUpd din) s = .next
      { s with
        crc := (fun c : Word => if c &&& 1 = 1 then (c >>> 1) ^^^ 0x8408 else c >>> 1)^[8] (s.crc ^^^ din.setWidth 16)
        outs := ⟨[], none, .none, none⟩ }

/-- From every state CRC.RD answers the state with q = crc, the other outputs empty, and every register unchanged
(decision D3; the final XOR of zero is GK1). (Derived: 41_crc.md section 2 (CRC.RD), 92_eei_decisions.md D3.) -/
def Obligations.CrcRdReturnsTheRemainder : Prop :=
  ∀ s : State, exec .crcRd s = .next { s with outs := ⟨[], some s.crc, .none, none⟩ }

/-- For every state and byte, CRC.UPD leaves crc = (crc >> 8) XOR T[(crc XOR din) & 0xFF], where T[i] is the register
after absorbing i into zero. (Derived: 41_crc.md section 2 (equivalent table form), 93_implementation_defined.md GK1.) -/
def Obligations.CrcUpdEqualsItsTableForm : Prop :=
  ∀ (s : State) (din : Byte),
    exec (.crcUpd din) s = .next
      { s with
        crc := (s.crc >>> 8) ^^^ crcTable Config.ksf ((s.crc ^^^ din.setWidth 16).setWidth 8)
        outs := ⟨[], none, .none, none⟩ }

/-- For every parameter record with CRC_INIT = 0 and CRC_XOROUT = 0 and all byte sequences of equal length, the checksum
of their bytewise XOR is the XOR of their checksums. (Derived: 41_crc.md section 4 (linearity), 92_eei_decisions.md
D18.) -/
def Obligations.CrcIsLinearForZeroInitAndXorOut : Prop :=
  ∀ k : Config, k.crcInit = 0 → k.crcXorOut = 0 → ∀ a b : List Byte, a.length = b.length →
    crc16 k (List.zipWith (fun x y => x ^^^ y) a b) = crc16 k a ^^^ crc16 k b

/-- For every n and byte sequence s, n zero bytes before s do not change crc16; the checksum of n zero bytes is 0; and a
frame of n + 2 zero bytes passes the check with a body of n zero bytes. (Derived: 41_crc.md section 4 (linearity,
corner cases), 93_implementation_defined.md GK1.) -/
def Obligations.LeadingZeroBytesDoNotChangeTheChecksum : Prop :=
  (∀ (n : Nat) (s : List Byte), crc16 Config.ksf (List.replicate n 0 ++ s) = crc16 Config.ksf s) ∧
    (∀ n : Nat, crc16 Config.ksf (List.replicate n 0) = 0) ∧
    ∀ n : Nat, crcCheck Config.ksf (List.replicate (n + 2) 0) = .ok (List.replicate n 0)

/-- For every frame of 2 bytes or more, crc_check is Ok if and only if crc16 of the whole frame, checksum bytes included,
is 0x0000. (Derived: 41_crc.md section 3 (residue form), 93_implementation_defined.md GK1.) -/
def Obligations.CheckPassesExactlyOnZeroResidue : Prop :=
  ∀ f : List Byte, 2 ≤ f.length → ((∃ body, crcCheck Config.ksf f = .ok body) ↔ crc16 Config.ksf f = 0x0000)

/-- For every parameter record: crc_check of f is Ok(body) if and only if f is crc_append of body; it is truncated exactly
when f has fewer than 2 bytes (decision D11); and it gives no third error. (Derived: 41_crc.md section 3 (CRC.APPEND,
CRC.CHECK), 41_crc.md section 4 (both directions), 92_eei_decisions.md D11.) -/
def Obligations.CheckAcceptsExactlyAppendedFrames : Prop :=
  ∀ (k : Config) (f : List Byte),
    (∀ body, crcCheck k f = .ok body ↔ f = crcAppend k body) ∧
    (crcCheck k f = .error .truncated ↔ f.length < 2) ∧ crcCheck k f ≠ .error .length

/-- For every packet p and every bit of crc_append(p), in the packet bytes or in the checksum bytes, crc_check of the
frame with that bit inverted is CorruptedError(crc_mismatch). (Derived: 41_crc.md section 4 (single-bit sensitivity),
93_implementation_defined.md GK1.) -/
def Obligations.AnySingleBitErrorFailsTheCheck : Prop :=
  ∀ (p : List Byte) (i : Nat), i < 8 * (crcAppend Config.ksf p).length →
    crcCheck Config.ksf (flipBit (crcAppend Config.ksf p) i) = .error .crcMismatch

/-- The byte pair of a checksum c is [c mod 256, c div 256]; the pair [a, b] declares a | (b << 8); the two are inverse to
each other, so no operation, parameter or mode switches the order. (Stated: R40.) -/
def Obligations.ChecksumCrossesTheWireLowByteFirst : Prop :=
  (∀ c : Word, le16 c = [BitVec.ofNat 8 (c.toNat % 256), BitVec.ofNat 8 (c.toNat / 256)]) ∧
    (∀ a b : Byte, u16le a b = a.setWidth 16 ||| (b.setWidth 16 <<< 8)) ∧
    (∀ a b : Byte, le16 (u16le a b) = [a, b]) ∧
    ∀ (k : Config) (p : List Byte), crcAppend k p = p ++ [BitVec.ofNat 8 ((crc16 k p).toNat % 256),
      BitVec.ofNat 8 ((crc16 k p).toNat / 256)]

/-- From every state and for every byte sequence the operations of CRC.COMPUTE complete; the value read is crc16 of the
bytes; crc holds it; esc, buf and the issued operations are unchanged. (Derived: 41_crc.md section 3 (CRC.COMPUTE),
92_eei_decisions.md D3.) -/
def Obligations.CrcComputeRunsToTheChecksum : Prop :=
  ∀ (bytes : List Byte) (s : State),
    hostCrcCompute bytes s = .next
      ({ s with crc := crc16 Config.ksf bytes, outs := ⟨[], some (crc16 Config.ksf bytes), .none, none⟩ },
       crc16 Config.ksf bytes)

/-- From every state the host's CRC.CHECK of a frame of 2 bytes or more completes with the result of crc_check, leaves
crc16 of the body in crc and changes no other register; of fewer than 2 bytes it issues nothing and leaves the state
as it is. (Derived: 41_crc.md section 3 (CRC.CHECK, state effect), 92_eei_decisions.md D3, 92_eei_decisions.md D11.) -/
def Obligations.CrcCheckRunsToItsResult : Prop :=
  ∀ s : State,
    (∀ (body : List Byte) (a b : Byte), ∃ t, hostCrcCheck (body ++ [a, b]) s = .next (t, checkResult (body ++ [a, b])) ∧
      t.crc = crc16 Config.ksf body ∧ t.buf = s.buf ∧ t.esc = s.esc ∧ t.input = s.input) ∧
    ∀ f : List Byte, f.length < 2 → hostCrcCheck f s = .next (s, .corrupted .truncated)

/-- From every state and for every byte ENC.BYTE answers the state with out = DB DE for 0xA5, DB DC for 0xC0, DB DD for
0xDB and the byte alone otherwise; every register is unchanged (the operation is decision D2, the mapping the
source's). (Derived: 42_slip_encoder.md section 1 (esc_of), 42_slip_encoder.md section 2 (ENC.BYTE, D2).) -/
def Obligations.EncByteReturnsTheWireSpelling : Prop :=
  ∀ (s : State) (din : Byte),
    exec (.encByte din) s = .next
      { s with
        outs := ⟨if din = 0xA5 then [0xDB, 0xDE] else if din = 0xC0 then [0xDB, 0xDC]
          else if din = 0xDB then [0xDB, 0xDD] else [din], none, .none, none⟩ }

/-- esc_of maps 0xA5, 0xC0, 0xDB to DB DE, DB DC, DB DD and every other byte, the mapped codes included, to itself; unesc
maps 0xDE, 0xDC, 0xDD back to the markers and is bad for every other byte; unesc of the code of a marker is the
marker. (Stated: R131, R152.) -/
def Obligations.EscapeTablesAreInverse : Prop :=
  (escOf 0xA5 = [0xDB, 0xDE] ∧ escOf 0xC0 = [0xDB, 0xDC] ∧ escOf 0xDB = [0xDB, 0xDD] ∧
      ∀ b : Byte, b ≠ 0xA5 → b ≠ 0xC0 → b ≠ 0xDB → escOf b = [b]) ∧
    (unesc 0xDE = some 0xA5 ∧ unesc 0xDC = some 0xC0 ∧ unesc 0xDD = some 0xDB ∧
      ∀ b : Byte, b ≠ 0xDE → b ≠ 0xDC → b ≠ 0xDD → unesc b = none) ∧
    ∀ m c : Byte, m ∈ [0xA5#8, 0xC0#8, 0xDB#8] → escOf m = [0xDB, c] → unesc c = some m

/-- From every state ENC.SOF answers the state with out = A5 and ENC.EOF the state with out = C0; every register is
unchanged (the operations are decision D2, the bytes the source's). (Derived: 42_slip_encoder.md section 2 (ENC.SOF,
ENC.EOF, D2).) -/
def Obligations.EncSofAndEncEofReturnTheDelimiters : Prop :=
  ∀ s : State,
    exec .encSof s = .next { s with outs := ⟨[0xA5], none, .none, none⟩ } ∧
    exec .encEof s = .next { s with outs := ⟨[0xC0], none, .none, none⟩ }

/-- From every state the n + 2 operations of SLIP.ENCODE complete; the concatenation of their out values is A5, then
esc_of of each byte in order, then C0; every register is unchanged; the rule's examples hold. (Stated: R136.) -/
def Obligations.SlipEncodeRunsToTheWireFrame : Prop :=
  (∀ (bytes : List Byte) (s : State),
      hostSlipEncode bytes s = .next
        ({ s with outs := ⟨[0xC0], none, .none, none⟩ }, [0xA5] ++ (bytes.map escOf).flatten ++ [0xC0])) ∧
    (∀ bytes : List Byte, slipEncodeOps bytes = [.encSof] ++ bytes.map .encByte ++ [.encEof] ∧
      (slipEncodeOps bytes).length = bytes.length + 2 ∧
      slipEncode bytes = [0xA5] ++ (bytes.map escOf).flatten ++ [0xC0]) ∧
    slipEncode [] = [0xA5, 0xC0] ∧ slipEncode [0x00] = [0xA5, 0x00, 0xC0] ∧
    slipEncode [0xA5, 0xC0, 0xDB] = [0xA5, 0xDB, 0xDE, 0xDB, 0xDC, 0xDB, 0xDD, 0xC0] ∧
    slipEncode [0x01, 0xDB, 0xDD, 0x02] = [0xA5, 0x01, 0xDB, 0xDD, 0xDD, 0x02, 0xC0]

/-- For every content: the first byte of the wire frame is 0xA5 and no other is; the last is 0xC0 and no other is; every
0xDB is immediately followed by 0xDE, 0xDC or 0xDD. (Derived: 42_slip_encoder.md section 4 (properties of the
output).) -/
def Obligations.WireFrameHasMarkersOnlyAtItsEnds : Prop :=
  ∀ s : List Byte,
    (slipEncode s).head? = some 0xA5 ∧ (slipEncode s).count 0xA5 = 1 ∧
    (slipEncode s).getLast? = some 0xC0 ∧ (slipEncode s).count 0xC0 = 1 ∧
    ∀ i : Nat, (slipEncode s)[i]? = some 0xDB → ∃ c ∈ [0xDE#8, 0xDC#8, 0xDD#8], (slipEncode s)[i + 1]? = some c

/-- For every content s the wire frame has len(s) + k + 2 bytes, k the number of its bytes that are 0xA5, 0xC0 or 0xDB; so
at most 2 len(s) + 2; and the frame of C0 C0 C0 C0 has length 10. (Stated: R139.) -/
def Obligations.WireFrameLengthCountsTheMarkers : Prop :=
  (∀ s : List Byte, (slipEncode s).length = s.length + s.countP (fun b => b = 0xA5 ∨ b = 0xC0 ∨ b = 0xDB) + 2) ∧
    (∀ s : List Byte, (slipEncode s).length ≤ 2 * s.length + 2) ∧
    (slipEncode [0xC0, 0xC0, 0xC0, 0xC0]).length = 10

/-- From every state and for every byte DEC.BYTE answers the state whose buf, esc and ev are those of the row of (esc,
din); crc and the issued operations are unchanged and the other outputs are empty. The rows of START, plain data, END
on an empty buffer and the consumed bad code rest on decisions D9, D12 and D10. (Derived: 43_slip_decoder.md section 4
(transition table), 92_eei_decisions.md D9, 92_eei_decisions.md D10, 92_eei_decisions.md D12.) -/
def Obligations.DecByteFollowsTheTransitionTable : Prop :=
  ∀ (s : State) (b : Byte),
    exec (.decByte b) s =
      if s.esc then
        if b = 0xDE then .next { s with buf := s.buf ++ [0xA5], esc := false, outs := ⟨[], none, .none, none⟩ }
        else if b = 0xDC then .next { s with buf := s.buf ++ [0xC0], esc := false, outs := ⟨[], none, .none, none⟩ }
        else if b = 0xDD then .next { s with buf := s.buf ++ [0xDB], esc := false, outs := ⟨[], none, .none, none⟩ }
        else .next { s with buf := [], esc := false, outs := ⟨[], none, .framingError, none⟩ }
      else
        if b = 0xA5 then .next { s with buf := [], esc := false, outs := ⟨[], none, .none, none⟩ }
        else if b = 0xC0 then .next { s with buf := [], esc := false, outs := ⟨[], none, .frame s.buf, none⟩ }
        else if b = 0xDB then .next { s with buf := s.buf, esc := true, outs := ⟨[], none, .none, none⟩ }
        else .next { s with buf := s.buf ++ [b], esc := false, outs := ⟨[], none, .none, none⟩ }

/-- With no escape pending: SYM.START answers the state with buf empty and no event; SYM.DATA of any byte that is no
marker answers the state with the byte appended to buf, whether or not a START was seen. crc and the issued operations
are unchanged. Both rest on decision D9. (Derived: 43_slip_decoder.md section 2 (SYM.START, SYM.DATA),
92_eei_decisions.md D9.) -/
def Obligations.StartDropsAndDataAccumulates : Prop :=
  ∀ s : State, s.esc = false →
    exec .symStart s = .next { s with buf := [], esc := false, outs := ⟨[], none, .none, none⟩ } ∧
    ∀ b : Byte, b ≠ 0xA5 → b ≠ 0xC0 → b ≠ 0xDB →
      exec (.symData b) s = .next { s with buf := s.buf ++ [b], esc := false, outs := ⟨[], none, .none, none⟩ }

/-- With no escape pending SYM.END answers the state with ev = Frame(buf), the bytes in arrival order, and buf empty; crc
and the issued operations are unchanged. That an empty buffer emits too is decision D12. (Derived: 43_slip_decoder.md
section 2 (SYM.END), 92_eei_decisions.md D12.) -/
def Obligations.EndEmitsTheWholeBuffer : Prop :=
  ∀ s : State, s.esc = false →
    exec .symEnd s = .next { s with buf := [], esc := false, outs := ⟨[], none, .frame s.buf, none⟩ }

/-- With no escape pending, also in Idle, SYM.ESC answers the state with esc = 1, buf unchanged and no event; crc and the
issued operations are unchanged. (Stated: R156.) -/
def Obligations.EscSetsThePendingFlag : Prop :=
  ∀ s : State, s.esc = false →
    exec .symEsc s = .next { s with buf := s.buf, esc := true, outs := ⟨[], none, .none, none⟩ }

/-- With an escape pending SYM.ESC_START, SYM.ESC_END and SYM.ESC_ESC answer the state with 0xA5, 0xC0 and 0xDB appended
to buf, esc = 0 and no event: the byte is data and is no boundary, ends no frame and starts no escape. crc and the
issued operations are unchanged. (Stated: R158, R159, R160.) -/
def Obligations.EscapePairsStandForTheMarkers : Prop :=
  ∀ s : State, s.esc = true →
    exec .symEscStart s = .next { s with buf := s.buf ++ [0xA5], esc := false, outs := ⟨[], none, .none, none⟩ } ∧
    exec .symEscEnd s = .next { s with buf := s.buf ++ [0xC0], esc := false, outs := ⟨[], none, .none, none⟩ } ∧
    exec .symEscEsc s = .next { s with buf := s.buf ++ [0xDB], esc := false, outs := ⟨[], none, .none, none⟩ }

/-- With an escape pending and any code byte that is no mapped code, the markers included, SYM.ESC_BAD answers the state
with buf empty, esc = 0 and ev = FramingError; crc and the issued operations are unchanged. That the code byte is not
looked at again is decision D10, that the event carries nothing D5. (Derived: 43_slip_decoder.md section 2
(SYM.ESC_BAD), 60_exceptions.md section 4 (entry), 92_eei_decisions.md D10.) -/
def Obligations.BadEscapeTakesTheFramingError : Prop :=
  ∀ (s : State) (c : Byte), s.esc = true → c ≠ 0xDE → c ≠ 0xDC → c ≠ 0xDD →
    exec (.symEscBad c) s = .next { s with buf := [], esc := false, outs := ⟨[], none, .framingError, none⟩ }

/-- For every state and byte, DEC.BYTE has the effect of the symbol that (esc, din) is, and a step on the wire byte is the
step on the command word 0x800 | byte. That a wire byte can be an input of its own is log entry 2. (Derived:
43_slip_decoder.md section 2 (DEC.BYTE), 30_encoding.md section 3 (symbol table).) -/
def Obligations.WireByteIsDecByteOfItsSymbol : Prop :=
  (∀ (s : State) (b : Byte), exec (.decByte b) s = exec (classify s.esc b).toInstr s) ∧
    ∀ (s t : State) (b : Byte) (rest : List Input), s.input = .wire b :: rest →
      t = { s with input := .cmd (0x800 ||| b.setWidth 12) :: rest } → step s = step t

/-- The op code 0x9 selects DEC.RST, whatever din is. From every state DEC.RST answers the state with buf empty, esc = 0
and no outputs; crc and everything not yet consumed are unchanged; done twice it leaves the same state as once; and
the decoder's part is that of the reset state. (Stated: R162.) -/
def Obligations.DecRstReturnsTheDecoderToItsInitialState : Prop :=
  (∀ w : Cmd, w &&& 0xF00 = 0x900 → decodeCmd w = .ok .decRst) ∧
    ∀ s : State,
      exec .decRst s = .next { s with buf := [], esc := false, outs := ⟨[], none, .none, none⟩ } ∧
      ∀ t, exec .decRst s = .next t → exec .decRst t = .next t ∧ t.dec = State.reset.dec

/-- DEC.BYTE completes with esc = 1 exactly when esc was 0 and the byte is 0xDB, so the byte after an ESC clears it
whatever it is; and a step that changes esc took a wire byte, a DEC.BYTE or a DEC.RST, so a pending escape is kept
across any delay. That a wire byte is an input of its own is log entry 2; that a step with nothing issued exists is
log entry 4. (Derived: 10_state.md section 1 (esc, R22), 10_state.md section 8 (read and write table, R36),
43_slip_decoder.md section 3 (DEC.RST, R162), 43_slip_decoder.md section 4 (transition table, R163), 30_encoding.md
section 5 (the prefix state survives any delay, R73).) -/
def Obligations.EscFlagIsSetByEscAndClearedByTheNextByte : Prop :=
  (∀ (s : State) (b : Byte), ∃ t, exec (.decByte b) s = .next t ∧ (t.esc = true ↔ s.esc = false ∧ b = 0xDB)) ∧
    ∀ s t : State, step s = .next t → t.esc ≠ s.esc →
      ∃ x rest, s.input = x :: rest ∧ ((∃ b, x = .wire b) ∨ ∃ w, x = .cmd w ∧ (w &&& 0xF00 = 0x800 ∨ w &&& 0xF00 = 0x900))

/-- If a step reports Frame(f), its input was the byte 0xC0 on the wire or the command DEC.BYTE C0, no escape was pending,
f is the whole buffer as it stood, and the buffer is empty after it; and when nothing is issued, the partial frame and
the pending escape are retained. That a step with nothing issued exists, of which the last clause speaks, is the
model's choice, log entry 4. (Derived: 20_memory.md section 2 (a frame is delivered whole, R46).) -/
def Obligations.FrameComesOnlyFromAnUnescapedEnd : Prop :=
  (∀ (s t : State) (f : List Byte), step s = .next t → t.outs.ev = .frame f →
      ∃ rest, (s.input = .wire 0xC0 :: rest ∨ s.input = .cmd 0x8C0 :: rest) ∧ s.esc = false ∧ f = s.buf ∧ t.buf = []) ∧
    ∀ s t : State, s.input = [] → step s = .next t → t.buf = s.buf ∧ t.esc = s.esc

/-- If a step reports FramingError, its input was a wire byte, or a DEC.BYTE of one, that is no mapped code, with an
escape pending; after it buf is empty, esc is 0, crc is unchanged and exactly that one byte has been consumed.
(Derived: 60_exceptions.md section 1 (FramingError, D5), 60_exceptions.md section 4 (entry), 92_eei_decisions.md D10.) -/
def Obligations.FramingErrorComesOnlyFromABadEscape : Prop :=
  ∀ s t : State, step s = .next t → t.outs.ev = .framingError →
    ∃ b rest, (s.input = .wire b :: rest ∨ s.input = .cmd (0x800 ||| b.setWidth 12) :: rest) ∧ s.esc = true ∧
      b ≠ 0xDE ∧ b ≠ 0xDC ∧ b ≠ 0xDD ∧ t.buf = [] ∧ t.esc = false ∧ t.crc = s.crc ∧ t.input = rest

/-- If an operation answers a next state: crc is unchanged unless it is CRC.CLR or CRC.UPD; buf and esc are unchanged
unless it is DEC.BYTE, DEC.RST or a wire symbol; out is empty unless it is an encoder operation; q is empty unless it
is CRC.RD; there is an event only for DEC.BYTE, SYM.END or SYM.ESC_BAD; and the issued operations are unchanged.
(Derived: 10_state.md section 8 (read and write table), 20_memory.md section 5 (the units are independent).) -/
def Obligations.OperationsTouchOnlyTheirRegisters : Prop :=
  ∀ (i : Instr) (s t : State), exec i s = .next t →
    (t.crc ≠ s.crc → i = .crcClr ∨ ∃ d, i = .crcUpd d) ∧
    (t.buf ≠ s.buf ∨ t.esc ≠ s.esc → i.isCommand = false ∨ i = .decRst ∨ ∃ d, i = .decByte d) ∧
    (t.outs.out ≠ [] ↔ i = .encSof ∨ i = .encEof ∨ ∃ d, i = .encByte d) ∧
    (t.outs.q ≠ none ↔ i = .crcRd) ∧
    (t.outs.ev ≠ .none → i = .symEnd ∨ (∃ c, i = .symEscBad c) ∨ ∃ d, i = .decByte d) ∧
    t.input = s.input ∧ t.outs.illegal = none

/-- CRC.RD, ENC.SOF, ENC.BYTE and ENC.EOF complete with every register unchanged, and done again return the same outputs;
CRC.CLR and DEC.RST complete, and done twice leave the same state as once. (Derived: 20_memory.md section 3 (side
effects and idempotency).) -/
def Obligations.ReadingAndEncodingRepeat : Prop :=
  (∀ (i : Instr) (s : State), (i = .crcRd ∨ i = .encSof ∨ i = .encEof ∨ ∃ d, i = .encByte d) →
      ∃ t, exec i s = .next t ∧ exec i t = .next t ∧ t.crc = s.crc ∧ t.esc = s.esc ∧ t.buf = s.buf) ∧
    ∀ (i : Instr) (s : State), (i = .crcClr ∨ i = .decRst) → ∃ t, exec i s = .next t ∧ exec i t = .next t

/-- For every decoder state and all byte sequences a and b: feeding a ++ b gives the state after feeding b to the state
after a, and the events of a followed by the events of b. (Derived: 43_slip_decoder.md section 6 (chunk
independence).) -/
def Obligations.DecFeedIsChunkIndependent : Prop :=
  ∀ (d : DecState) (a b : List Byte),
    decFeed d (a ++ b) = ((decFeed (decFeed d a).1 b).1, (decFeed d a).2 ++ (decFeed (decFeed d a).1 b).2)

/-- For every decoder state and chunk, the number of Frame events is the number of bytes 0xC0 consumed with no escape
pending, and the number of all events is at most the length of the chunk. (Derived: 43_slip_decoder.md section 5
(DEC.FEED).) -/
def Obligations.FramesAreCountedByUnescapedEnds : Prop :=
  ∀ (d : DecState) (chunk : List Byte),
    (decFeed d chunk).2.countP Event.isFrame = unescapedEnds d.esc chunk ∧ (decFeed d chunk).2.length ≤ chunk.length

/-- From every state and for every chunk the operations of DEC.FEED complete; the events they report, None left out, are
those of dec_feed in order; buf and esc are its final state; crc and the issued operations are unchanged. (Derived:
43_slip_decoder.md section 5 (DEC.FEED), 30_encoding.md section 6 (composites).) -/
def Obligations.DecFeedRunsOnTheBlock : Prop :=
  ∀ (chunk : List Byte) (s : State),
    ∃ t, hostDecFeed chunk s = .next (t, (decFeed s.dec chunk).2) ∧ t.dec = (decFeed s.dec chunk).1 ∧
      t.crc = s.crc ∧ t.input = s.input

/-- For every content s and every buffer: with no escape pending, feeding slip_encode(s) gives Frame(s) alone and the
state (empty, 0); with an escape pending it gives FramingError, Frame(s) and the same state. (Derived:
43_slip_decoder.md section 6 (round trip), 92_eei_decisions.md D9, 92_eei_decisions.md D10, 92_eei_decisions.md D12.) -/
def Obligations.SlipRoundTripFromAnyState : Prop :=
  ∀ buf s : List Byte,
    decFeed ⟨buf, false⟩ (slipEncode s) = (⟨[], false⟩, [.frame s]) ∧
    decFeed ⟨buf, true⟩ (slipEncode s) = (⟨[], false⟩, [.framingError, .frame s])

/-- From every decoder state, A5 A5 leads to the state (empty, 0); there is no event when no escape was pending and one
FramingError when one was. (Derived: 43_slip_decoder.md section 6 (progress), 92_eei_decisions.md D9,
92_eei_decisions.md D10.) -/
def Obligations.TwoStartsReachIdle : Prop :=
  ∀ d : DecState, decFeed d [0xA5, 0xA5] = (⟨[], false⟩, if d.esc then [.framingError] else [])

/-- With no escape pending, any sequence of bytes that are no markers is appended to the buffer whole, with no event and
no limit (BUF_CAP unbounded); with a finite capacity n, a byte is taken exactly while fewer than n are held, and the
buffer never exceeds n. (Derived: 43_slip_decoder.md section 6 (no length limit), 92_eei_decisions.md D6,
93_implementation_defined.md U1.) -/
def Obligations.BufferGrowsWithoutLimit : Prop :=
  (∀ buf l : List Byte, (∀ b ∈ l, b ≠ 0xA5 ∧ b ≠ 0xC0 ∧ b ≠ 0xDB) →
      decFeed ⟨buf, false⟩ l = (⟨buf ++ l, false⟩, [])) ∧
    ∀ (n : Nat) (buf : List Byte) (b : Byte), buf.length ≤ n →
      (bufAppend (some n) buf b = none ↔ buf.length = n) ∧
      ∀ buf', bufAppend (some n) buf b = some buf' → buf' = buf ++ [b] ∧ buf'.length ≤ n

/-- From every state the one-pass operations of TX.SEND complete; their out values joined are START, esc_of of each byte
of p, esc_of of the low then the high checksum byte, END; crc holds crc16(p); the decoder and the issued operations
are unchanged; the operations it issues, whatever the value q that CRC.RD returned, number 2n + 6. (Derived:
44_pipeline.md section 2 (TX.SEND).) -/
def Obligations.TxSendRunsToTheSentFrame : Prop :=
  (∀ (p : List Byte) (s : State),
      hostTxSend p s = .next
        ({ s with crc := crc16 Config.ksf p, outs := ⟨[0xC0], none, .none, none⟩ },
         [0xA5] ++ p.flatMap escOf ++ escOf (lo8 (crc16 Config.ksf p)) ++ escOf (hi8 (crc16 Config.ksf p)) ++ [0xC0])) ∧
    ∀ p : List Byte,
      txSend p = [0xA5] ++ p.flatMap escOf ++ escOf (lo8 (crc16 Config.ksf p)) ++ escOf (hi8 (crc16 Config.ksf p)) ++ [0xC0] ∧
      ∀ q : Word, (txSendFirstOps p ++ [Instr.crcRd] ++ txSendLastOps q).length = 2 * p.length + 6

/-- From every state and for every chunk the loop of DEC.BYTE, CRC.CHECK of each frame before the next byte, and DEC.RST
on each error completes; its results are those of rx_feed in order; buf and esc are rx_feed's final state, so the
resets change nothing; crc holds the checksum of the last body checked; the issued operations are unchanged. (Derived:
44_pipeline.md section 3 (RX.FEED), 41_crc.md section 3 (state effect), 92_eei_decisions.md D13.) -/
def Obligations.RxFeedRunsOnTheBlock : Prop :=
  ∀ (chunk : List Byte) (s : State),
    ∃ t, hostRxFeed chunk s = .next (t, (rxFeed s.dec chunk).2) ∧ t.dec = (rxFeed s.dec chunk).1 ∧
      t.crc = crcAfterChecks s.crc (decFeed s.dec chunk).2 ∧ t.input = s.input

/-- For every packet p and every buffer, with no escape pending: feeding tx_send(p) to the receive path gives Body(p)
alone and leaves the decoder in its initial state; so too on the block itself. (Derived: 44_pipeline.md section 3
(end-to-end round trip).) -/
def Obligations.SentPacketIsReceivedAsItsBody : Prop :=
  (∀ buf p : List Byte, rxFeed ⟨buf, false⟩ (txSend p) = (⟨[], false⟩, [.body p])) ∧
    ∀ (s : State) (p : List Byte), s.esc = false →
      ∃ t, hostRxFeed (txSend p) s = .next (t, [.body p]) ∧ t.buf = [] ∧ t.esc = false ∧ t.crc = crc16 Config.ksf p

/-- For every decoder state and every chunk before it, however damaged, the wire frame of p is received as Body(p) after
the chunk's own results; there is one FramingError between them exactly when the chunk left an escape pending.
(Derived: 44_pipeline.md section 3 (every error is local), 43_slip_decoder.md section 6 (round trip).) -/
def Obligations.ErrorsAreLocalToTheirFrame : Prop :=
  ∀ (d : DecState) (chunk p : List Byte),
    rxFeed d (chunk ++ txSend p) =
      (⟨[], false⟩, (rxFeed d chunk).2 ++ (if (rxFeed d chunk).1.esc then [.framingError] else []) ++ [.body p])

/-- For any list of command operations, as many steps of the machine from the state in which the host has issued their
encodings, before anything else it has issued, end in the state that issuing the operations one after another gives,
and complete. The command words are the canonical ones; for other din bits and for wire bytes see
CommandWordSelectsTheTableRow and WireByteIsDecByteOfItsSymbol. (Derived: 20_memory.md section 5 (ordering),
10_state.md section 2 (D4).) -/
def Obligations.IssuedCommandsRunInOrder : Prop :=
  ∀ (is : List Instr) (s : State) (rest : List Input), (∀ i ∈ is, i.isCommand = true) → s.input = rest →
    ∃ t os, issueAll is s = .next (t, os) ∧ os.length = is.length ∧
      Sys2Proof.core.run is.length { s with input := is.flatMap encode ++ rest } = .next t

/-- From every state, if a step answers t then in t: out has at most 2 bytes; a value on q is the value in crc; after a
frame or a framing error the decoder is in its initial state; an IllegalOp comes with no output; at most one output is
set. The step needs no premise on s, so every run keeps it. Where the outputs stand is log entry 1. (Derived:
20_memory.md section 3 (widths), 10_state.md section 8 (outputs), 60_exceptions.md section 4 (entry).) -/
def Obligations.EveryStepsOutputsAgreeWithTheRegisters : Prop :=
  ∀ s t : State, step s = .next t → OutputsAgree t

/-- In the reset state the outputs agree with the registers (log entry 1). (Derived: 10_state.md section 7 (reset table).) -/
def Obligations.ResetOutputsAgreeWithTheRegisters : Prop :=
  OutputsAgree State.reset

/-- Two states that agree on buf, esc and the issued inputs, and differ anyhow in crc, still agree on buf, esc, inputs
and, after a step, on out and ev, after any number of steps; two states that agree on crc and the inputs, and differ
anyhow in buf and esc, still agree on crc and the inputs, and after a step on q. Both runs complete for every number
of steps: past the issued inputs that rests on log entry 4 (a step with nothing issued), and for reserved command
words on log entry 3. (Derived: 20_memory.md section 5 (the units are independent).) -/
def Obligations.DecoderAndGeneratorDoNotInfluenceEachOther : Prop :=
  (∀ (n : Nat) (s₁ s₂ : State), s₁.buf = s₂.buf → s₁.esc = s₂.esc → s₁.input = s₂.input →
      ∃ t₁ t₂, Sys2Proof.core.run n s₁ = .next t₁ ∧ Sys2Proof.core.run n s₂ = .next t₂ ∧
        t₁.buf = t₂.buf ∧ t₁.esc = t₂.esc ∧ t₁.input = t₂.input ∧
        (0 < n → t₁.outs.ev = t₂.outs.ev ∧ t₁.outs.out = t₂.outs.out)) ∧
    ∀ (n : Nat) (s₁ s₂ : State), s₁.crc = s₂.crc → s₁.input = s₂.input →
      ∃ t₁ t₂, Sys2Proof.core.run n s₁ = .next t₁ ∧ Sys2Proof.core.run n s₂ = .next t₂ ∧
        t₁.crc = t₂.crc ∧ t₁.input = t₂.input ∧ (0 < n → t₁.outs.q = t₂.outs.q)

/-- A packet that serializes does so as its type code, a declared length, and the bytes after the header; the declared
length is the number of those bytes, but for a RadioSend with a supplied payload, of which both are free (log entry
12). Where that many bytes follow, deserializeHeader of the body, with any surplus after it, gives the type code and
exactly that many bytes; and of a part of the body that is short of the declared length it is CorruptedError(length).
Codec context, no part of the block. (Derived: 45_packet_context.md section 1 (serialize, deserializeHeader),
91_not_in_source.md N9, 91_not_in_source.md N10.) -/
def Obligations.HeaderOfASerializedPacketIsReadBack : Prop :=
  ∀ (p : Packet) (body : List Byte), serialize p = some body →
    ∃ (declared : Nat) (bytes : List Byte), p.encoding = some (declared, bytes) ∧ declared < 65536 ∧
      body = p.type.code :: BitVec.ofNat 8 (declared % 256) :: BitVec.ofNat 8 (declared / 256) :: bytes ∧
      ((∀ b supplied, p ≠ .radioSend (b :: supplied)) → declared = bytes.length) ∧
      (declared ≤ bytes.length → ∀ surplus : List Byte,
        deserializeHeader Config.ksf (body ++ surplus) = .ok (p.type.code, bytes.take declared)) ∧
      ∀ n, 3 ≤ n → n < 3 + declared → n ≤ body.length →
        deserializeHeader Config.ksf (body.take n) = .error (.corrupted .length)

/-- Every variant can be sent or received or both. For every send-only type (all radio configuration and control
commands), whatever the payload bytes, the variant's deserialize yields NotDeserializableError; and so does every
whole body whose header is read as that type. RadioReceivedPacket is receive-only and not sendable. That the error
carries the type is the model's, log entry 14. Codec context, no part of the block. (Derived: 45_packet_context.md
section 4 (capability, R215), 45_packet_context.md section 2 (the type catalog, R205), 45_packet_context.md section 3
(RadioReceivedPacket, R213).) -/
def Obligations.SendOnlyPacketIsNeverDeserialized : Prop :=
  (∀ t : PacketType, canSend t.capabilityOrFree = true ∨ canReceive t.capabilityOrFree = true) ∧
    (∀ t : PacketType, t ∈ [PacketType.radioPhyConfig, .radioFreqConfig, .radioLoraConfig, .enterSleepStop2, .radioGoSleep,
        .radioGoIdle, .radioSend, .radioRecvStart] →
      t.capability = some .sendOnly ∧ ∀ payload : List Byte,
        deserializeAs t payload = .error (.notDeserializable t) ∧
        dispatchPacket t.code payload = .error (.notDeserializable t) ∧
        ∀ body, deserializeHeader Config.ksf body = .ok (t.code, payload) →
          deserializeBody Config.ksf body = .error (.notDeserializable t)) ∧
    PacketType.radioReceivedPacket.capability = some .receiveOnly ∧ PacketType.radioReceivedPacket.sendable = false

/-- Ping serializes as 00 00 00; RadioPhyConfig, RadioFreqConfig, RadioRecvStart and RadioLoraConfig as their type code,
the length 6, 4, 4 or 12 and their fields in order, multi-byte integers low byte first. The two sync bytes of
RadioLoraConfig are bytes of the sync word, in order, when it has 2 or more, and contain it when it has 2 or fewer;
the spelling of its booleans is free, and that it is the boolean fixedHeader which is inverted is the model's choice
(log entry 12). RadioSend with nothing supplied serializes as its empty header 42 00 00, and with a supplied payload
as its type code, a length of 2 bytes and more bytes, all free but the code (log entry 12). A RadioReceivedPacket does
not serialize: the model's choice, log entry 14. Codec context, no part of the block. (Derived: 45_packet_context.md
section 3 (payload layouts), 45_packet_context.md section 1 (serialize), 91_not_in_source.md N10.) -/
def Obligations.PacketsSerializeInTheirLayouts : Prop :=
  serialize .ping = some [0x00, 0x00, 0x00] ∧
    (∀ c : PhyConfig, serialize (.radioPhyConfig c) = some [0x10, 0x06, 0x00, c.paDutyCycle, c.hpMax, c.paSelect, c.txPower,
      c.rampTime, if c.rxBoost then 0x01 else 0x00]) ∧
    (∀ hz : BitVec 32, serialize (.radioFreqConfig hz) = some [0x11, 0x04, 0x00, BitVec.ofNat 8 hz.toNat,
      BitVec.ofNat 8 (hz.toNat / 256), BitVec.ofNat 8 (hz.toNat / 65536), BitVec.ofNat 8 (hz.toNat / 16777216)]) ∧
    (∀ ms : BitVec 32, serialize (.radioRecvStart ms) = some [0x43, 0x04, 0x00, BitVec.ofNat 8 ms.toNat,
      BitVec.ofNat 8 (ms.toNat / 256), BitVec.ofNat 8 (ms.toNat / 65536), BitVec.ofNat 8 (ms.toNat / 16777216)]) ∧
    (∀ c : LoraConfig, ∃ s₀ s₁ : Byte,
      serialize (.radioLoraConfig c) = some [0x12, 0x0C, 0x00, BitVec.ofNat 8 c.preambleLen.toNat,
        BitVec.ofNat 8 (c.preambleLen.toNat / 256), Config.flagByte 2 (!c.fixedHeader), c.payloadLen,
        Config.flagByte 4 c.enableCRC, Config.flagByte 5 c.invertIQ, c.spreadFactor, c.bandwidth, c.codingRate,
        Config.flagByte 9 c.lowCodingRateOptimize, s₀, s₁] ∧
      (2 ≤ c.syncWord.length → [s₀, s₁].Sublist c.syncWord) ∧ (c.syncWord.length ≤ 2 → c.syncWord.Sublist [s₀, s₁])) ∧
    serialize (.radioSend []) = some [0x42, 0x00, 0x00] ∧
    (∀ supplied : List Byte, ∃ (lo hi : Byte) (rest : List Byte),
      serialize (.radioSend supplied) = some (0x42 :: lo :: hi :: rest)) ∧
    ∀ (rssi snr : Int) (payload : List Byte), serialize (.radioReceivedPacket rssi snr payload) = none

/-- The configuration record of this hardware holds the parameters of the spec's table: the widths 8, 16 and 12, which are
those of the types; the six wire constants; the CRC parameters (0x8408, the bit reversal of 0x1021; general knowledge
GK1, log entry 7); little-endian checksum order; and an unbounded buffer (decision D6). CMD_W is decision D2.
(Derived: 00_scope.md section 4 (implementation parameters, R9), 92_eei_decisions.md D2, 92_eei_decisions.md D6,
93_implementation_defined.md GK1.) -/
def Obligations.ParametersHaveTheirStatedValues : Prop :=
  Config.ksf.symW = 8 ∧ Config.ksf.crcW = 16 ∧ Config.ksf.cmdW = 12 ∧
    Byte = BitVec Config.ksf.symW ∧ Word = BitVec Config.ksf.crcW ∧ Cmd = BitVec Config.ksf.cmdW ∧
    Config.ksf.start = 0xA5 ∧ Config.ksf.stop = 0xC0 ∧ Config.ksf.esc = 0xDB ∧
    Config.ksf.escStart = 0xDE ∧ Config.ksf.escEnd = 0xDC ∧ Config.ksf.escEsc = 0xDD ∧
    Config.ksf.crcPoly = 0x8408 ∧ Config.ksf.crcPoly = (0x1021#16).reverse ∧ Config.ksf.crcInit = 0x0000 ∧
    Config.ksf.crcRefIn = true ∧ Config.ksf.crcRefOut = true ∧ Config.ksf.crcXorOut = 0x0000 ∧
    Config.ksf.crcByteOrder = .littleEndian ∧ Config.ksf.bufCap = none
end

