-- ==== Sys2Proof/Laws/State.lean ====
section
/-! SUPPORT. What each update of the state leaves in each field: one lemma per field per update, so that no later proof unfolds a
record update. -/

namespace Sys2Proof.Machine

/-! ### `State.writeCrc` -/

@[simp] theorem State.writeCrc_crc (s : State) (v : Word) : (s.writeCrc v).crc = v := rfl
@[simp] theorem State.writeCrc_esc (s : State) (v : Word) : (s.writeCrc v).esc = s.esc := rfl
@[simp] theorem State.writeCrc_buf (s : State) (v : Word) : (s.writeCrc v).buf = s.buf := rfl
@[simp] theorem State.writeCrc_outs (s : State) (v : Word) : (s.writeCrc v).outs = s.outs := rfl
@[simp] theorem State.writeCrc_input (s : State) (v : Word) : (s.writeCrc v).input = s.input := rfl

/-! ### `State.writeDec` -/

@[simp] theorem State.writeDec_crc (s : State) (b : List Byte) (e : Bool) : (s.writeDec b e).crc = s.crc := rfl
@[simp] theorem State.writeDec_esc (s : State) (b : List Byte) (e : Bool) : (s.writeDec b e).esc = e := rfl
@[simp] theorem State.writeDec_buf (s : State) (b : List Byte) (e : Bool) : (s.writeDec b e).buf = b := rfl
@[simp] theorem State.writeDec_outs (s : State) (b : List Byte) (e : Bool) : (s.writeDec b e).outs = s.outs := rfl
@[simp] theorem State.writeDec_input (s : State) (b : List Byte) (e : Bool) : (s.writeDec b e).input = s.input := rfl

/-! ### `State.clearDec` -/

@[simp] theorem State.clearDec_crc (s : State) : s.clearDec.crc = s.crc := rfl
@[simp] theorem State.clearDec_esc (s : State) : s.clearDec.esc = false := rfl
@[simp] theorem State.clearDec_buf (s : State) : s.clearDec.buf = [] := rfl
@[simp] theorem State.clearDec_outs (s : State) : s.clearDec.outs = s.outs := rfl
@[simp] theorem State.clearDec_input (s : State) : s.clearDec.input = s.input := rfl

/-! ### `State.report` -/

@[simp] theorem State.report_crc (s : State) (o : Outputs) : (s.report o).crc = s.crc := rfl
@[simp] theorem State.report_esc (s : State) (o : Outputs) : (s.report o).esc = s.esc := rfl
@[simp] theorem State.report_buf (s : State) (o : Outputs) : (s.report o).buf = s.buf := rfl
@[simp] theorem State.report_outs (s : State) (o : Outputs) : (s.report o).outs = o := rfl
@[simp] theorem State.report_input (s : State) (o : Outputs) : (s.report o).input = s.input := rfl

/-- Only the last report is seen (R26: an event that is not taken is not held). -/
@[simp] theorem State.report_report (s : State) (o p : Outputs) : (s.report o).report p = s.report p := rfl

/-! ### `State.issue` and `State.fullReset` -/

@[simp] theorem State.issue_crc (s : State) (xs : List Input) : (s.issue xs).crc = s.crc := rfl
@[simp] theorem State.issue_esc (s : State) (xs : List Input) : (s.issue xs).esc = s.esc := rfl
@[simp] theorem State.issue_buf (s : State) (xs : List Input) : (s.issue xs).buf = s.buf := rfl
@[simp] theorem State.issue_outs (s : State) (xs : List Input) : (s.issue xs).outs = s.outs := rfl
@[simp] theorem State.issue_input (s : State) (xs : List Input) : (s.issue xs).input = s.input ++ xs := rfl
@[simp] theorem State.fullReset_crc (s : State) : s.fullReset.crc = Config.ksf.crcInit := rfl
@[simp] theorem State.fullReset_esc (s : State) : s.fullReset.esc = false := rfl
@[simp] theorem State.fullReset_buf (s : State) : s.fullReset.buf = [] := rfl
@[simp] theorem State.fullReset_outs (s : State) : s.fullReset.outs = .empty := rfl
@[simp] theorem State.fullReset_input (s : State) : s.fullReset.input = s.input := rfl

/-! ### The outputs -/

@[simp] theorem Outputs.empty_out : Outputs.empty.out = [] := rfl
@[simp] theorem Outputs.empty_q : Outputs.empty.q = none := rfl
@[simp] theorem Outputs.empty_ev : Outputs.empty.ev = .none := rfl
@[simp] theorem Outputs.empty_illegal : Outputs.empty.illegal = none := rfl
@[simp] theorem Outputs.ofBytes_out (l : List Byte) : (Outputs.ofBytes l).out = l := rfl
@[simp] theorem Outputs.ofBytes_q (l : List Byte) : (Outputs.ofBytes l).q = none := rfl
@[simp] theorem Outputs.ofBytes_ev (l : List Byte) : (Outputs.ofBytes l).ev = .none := rfl
@[simp] theorem Outputs.ofBytes_illegal (l : List Byte) : (Outputs.ofBytes l).illegal = none := rfl
@[simp] theorem Outputs.ofValue_out (v : Word) : (Outputs.ofValue v).out = [] := rfl
@[simp] theorem Outputs.ofValue_q (v : Word) : (Outputs.ofValue v).q = some v := rfl
@[simp] theorem Outputs.ofValue_ev (v : Word) : (Outputs.ofValue v).ev = .none := rfl
@[simp] theorem Outputs.ofValue_illegal (v : Word) : (Outputs.ofValue v).illegal = none := rfl
@[simp] theorem Outputs.ofEvent_out (e : Event) : (Outputs.ofEvent e).out = [] := rfl
@[simp] theorem Outputs.ofEvent_q (e : Event) : (Outputs.ofEvent e).q = none := rfl
@[simp] theorem Outputs.ofEvent_ev (e : Event) : (Outputs.ofEvent e).ev = e := rfl
@[simp] theorem Outputs.ofEvent_illegal (e : Event) : (Outputs.ofEvent e).illegal = none := rfl

/-! ### Events as lists -/

@[simp] theorem State.dec_buf (s : State) : s.dec.buf = s.buf := rfl
@[simp] theorem State.dec_esc (s : State) : s.dec.esc = s.esc := rfl

end Sys2Proof.Machine
end

