-- ==== Sys2Proof/Laws/Ops.lean ====
section
/-! SUPPORT. One lemma for each shared operation that says all it can do; the meanings' proofs cite these. -/

namespace Sys2Proof.Machine

/-! ### The wire constants -/

@[simp] theorem ksf_start : Config.ksf.start = 0xA5#8 := rfl
@[simp] theorem ksf_stop : Config.ksf.stop = 0xC0#8 := rfl
@[simp] theorem ksf_esc : Config.ksf.esc = 0xDB#8 := rfl
@[simp] theorem ksf_escStart : Config.ksf.escStart = 0xDE#8 := rfl
@[simp] theorem ksf_escEnd : Config.ksf.escEnd = 0xDC#8 := rfl
@[simp] theorem ksf_escEsc : Config.ksf.escEsc = 0xDD#8 := rfl
@[simp] theorem ksf_crcByteOrder : Config.ksf.crcByteOrder = .littleEndian := rfl
@[simp] theorem ksf_crcInit : Config.ksf.crcInit = 0#16 := rfl
@[simp] theorem ksf_bufCap : Config.ksf.bufCap = none := rfl

/-- The polynomial's reflected form is the reversal of 0x1021 (R100). -/
theorem ksf_crcPoly_reversed : Config.ksf.crcPoly = (0x1021#16).reverse := by decide

/-! ### The buffer -/

@[simp] theorem bufAppend_unbounded (buf : List Byte) (b : Byte) : bufAppend none buf b = some (buf ++ [b]) := rfl

/-- A bounded buffer takes a byte exactly while it has room. -/
theorem bufAppend_bounded (n : Nat) (buf : List Byte) (b : Byte) :
    bufAppend (some n) buf b = if buf.length < n then some (buf ++ [b]) else none := rfl

/-- With this hardware's unbounded buffer a data byte is always taken. -/
@[simp] theorem pushData_next (b : Byte) (s : State) :
    pushData b s = .next ((s.writeDec (s.buf ++ [b]) false).report .empty) := rfl

/-! ### Fetching -/

@[simp] theorem fetch_nil (s : State) (h : s.input = []) : fetch s = none := by simp [fetch, h]

@[simp] theorem fetch_cons (s : State) (x : Input) (rest : List Input) (h : s.input = x :: rest) :
    fetch s = some (x, { s with input := rest }) := by simp [fetch, h]

/-- Everything a step can do: idle, run the decoded operation, or take the rejection. -/
theorem step_cases (s : State) :
    (s.input = [] ∧ step s = .next (s.report .empty)) ∨
    (∃ x rest i, s.input = x :: rest ∧ decodeInput s.esc x = .ok i ∧ step s = exec i { s with input := rest }) ∨
    (∃ x rest w, s.input = x :: rest ∧ decodeInput s.esc x = .error (.reservedOp w) ∧
      step s = .next (takeIllegalOp w { s with input := rest })) := by
  cases hx : s.input with
  | nil => exact .inl ⟨rfl, by simp [step, hx, idle]⟩
  | cons x rest =>
    cases hd : decodeInput s.esc x with
    | ok i => exact .inr (.inl ⟨x, rest, i, rfl, hd, by simp [step, fetch_cons s x rest hx, hd]⟩)
    | error r =>
      cases r with
      | reservedOp w => exact .inr (.inr ⟨x, rest, w, rfl, hd, by simp [step, fetch_cons s x rest hx, hd, takeRejection]⟩)

/-! ### The escape tables -/

/-- Everything `esc_of` can answer: an escape pair for a marker, the byte itself otherwise. -/
theorem escOf_cases (b : Byte) :
    (b = 0xA5#8 ∧ escOf b = [0xDB#8, 0xDE#8]) ∨ (b = 0xC0#8 ∧ escOf b = [0xDB#8, 0xDC#8]) ∨
    (b = 0xDB#8 ∧ escOf b = [0xDB#8, 0xDD#8]) ∨ (b ≠ 0xA5#8 ∧ b ≠ 0xC0#8 ∧ b ≠ 0xDB#8 ∧ escOf b = [b]) := by
  by_cases h1 : b = 0xA5#8
  · subst h1; exact .inl ⟨rfl, rfl⟩
  by_cases h2 : b = 0xC0#8
  · subst h2; exact .inr (.inl ⟨rfl, rfl⟩)
  by_cases h3 : b = 0xDB#8
  · subst h3; exact .inr (.inr (.inl ⟨rfl, rfl⟩))
  · exact .inr (.inr (.inr ⟨h1, h2, h3, by simp [escOf, h1, h2, h3]⟩))

/-- Everything `classify` can answer with no escape pending. -/
theorem classify_plain_cases (b : Byte) :
    (b = 0xA5#8 ∧ classify false b = .start) ∨ (b = 0xC0#8 ∧ classify false b = .stop) ∨
    (b = 0xDB#8 ∧ classify false b = .esc) ∨ (b ≠ 0xA5#8 ∧ b ≠ 0xC0#8 ∧ b ≠ 0xDB#8 ∧ classify false b = .data b) := by
  by_cases h1 : b = 0xA5#8
  · subst h1; exact .inl ⟨rfl, rfl⟩
  by_cases h2 : b = 0xC0#8
  · subst h2; exact .inr (.inl ⟨rfl, rfl⟩)
  by_cases h3 : b = 0xDB#8
  · subst h3; exact .inr (.inr (.inl ⟨rfl, rfl⟩))
  · exact .inr (.inr (.inr ⟨h1, h2, h3, by simp [classify, h1, h2, h3]⟩))

/-- Everything `classify` can answer with an escape pending. -/
theorem classify_escaped_cases (b : Byte) :
    (b = 0xDE#8 ∧ classify true b = .escStart) ∨ (b = 0xDC#8 ∧ classify true b = .escEnd) ∨
    (b = 0xDD#8 ∧ classify true b = .escEsc) ∨ (b ≠ 0xDE#8 ∧ b ≠ 0xDC#8 ∧ b ≠ 0xDD#8 ∧ classify true b = .escBad b) := by
  by_cases h1 : b = 0xDE#8
  · subst h1; exact .inl ⟨rfl, rfl⟩
  by_cases h2 : b = 0xDC#8
  · subst h2; exact .inr (.inl ⟨rfl, rfl⟩)
  by_cases h3 : b = 0xDD#8
  · subst h3; exact .inr (.inr (.inl ⟨rfl, rfl⟩))
  · exact .inr (.inr (.inr ⟨h1, h2, h3, by simp [classify, h1, h2, h3]⟩))

/-- A command word decodes independently of the flag `esc`. -/
@[simp] theorem decodeInput_cmd (esc : Bool) (w : Cmd) : decodeInput esc (.cmd w) = decodeCmd w := rfl

@[simp] theorem decodeInput_wire (esc : Bool) (b : Byte) : decodeInput esc (.wire b) = .ok (classify esc b).toInstr := rfl

/-! ### Splitting and joining -/

/-- A 16-bit value is joined again from its two bytes (R40). -/
@[simp] theorem u16le_lo8_hi8 (v : Word) : u16le (lo8 v) (hi8 v) = v := by
  apply BitVec.eq_of_getLsbD_eq
  intro i hi
  simp only [u16le, lo8, hi8, BitVec.getLsbD_or, BitVec.getLsbD_setWidth, BitVec.getLsbD_shiftLeft,
    BitVec.getLsbD_extractLsb']
  by_cases h : i < 8
  · simp [h, hi]
  · have h8 : i - 8 < 8 := by omega
    have h9 : 8 + (i - 8) = i := by omega
    simp only [h, hi, h8, h9, decide_true, decide_false, Bool.true_and, Bool.false_and, Bool.not_false]
    simp [hi]
    omega

/-- Whatever the parameters, the low checksum byte is first (R40). -/
@[simp] theorem checksumBytes_eq (k : Config) (c : Word) : checksumBytes k c = le16 c := rfl

@[simp] theorem declaredChecksum_eq (k : Config) (a b : Byte) : declaredChecksum k a b = u16le a b := rfl

/-- A frame of two bytes or more, split. -/
@[simp] theorem splitFrame_append (k : Config) (body : List Byte) (a b : Byte) :
    splitFrame k (body ++ [a, b]) = some (body, u16le a b) := by simp [splitFrame]

/-- A frame splits exactly when it has two bytes. -/
theorem splitFrame_cases (k : Config) (f : List Byte) :
    (f.length < 2 ∧ splitFrame k f = none) ∨
    (∃ body a b, f = body ++ [a, b] ∧ splitFrame k f = some (body, u16le a b)) := by
  rcases hr : f.reverse with _ | ⟨b, _ | ⟨a, t⟩⟩
  · left; have := congrArg List.length hr; simp at this; simp [this, splitFrame]
  · left; have := congrArg List.length hr; simp at this; simp [this, splitFrame, hr]
  · right
    have hf : f = t.reverse ++ [a, b] := by
      have := congrArg List.reverse hr; simpa using this
    exact ⟨t.reverse, a, b, hf, by simp [hf]⟩

end Sys2Proof.Machine
end

