-- ==== Sys2Proof/Laws/Codec.lean ====
section
/-! SUPPORT. What the codec's sending side can answer (context, spec/45_packet_context.md). -/

namespace Sys2Proof.Machine

/-- The two bytes of a 16-bit length, the low one first (R201). -/
theorem le16_ofNat (n : Nat) : le16 (BitVec.ofNat 16 n) = [BitVec.ofNat 8 (n % 256), BitVec.ofNat 8 (n / 256)] := by
  simp only [le16, lo8, hi8, List.cons.injEq, and_true]
  constructor <;> apply BitVec.eq_of_toNat_eq <;> simp [BitVec.extractLsb'_toNat, Nat.shiftRight_eq_div_pow] <;> omega

/-- A listed type is enumerated, and its code stands for it alone. -/
theorem PacketType.code_listed (t : PacketType) :
    enumerated Config.ksf t.code = true ∧ PacketType.ofCode t.code = some t := by cases t <;> decide

/-- Everything `serialize` can answer: nothing, or the type code, the declared length and the bytes of the variant's encoding. -/
theorem serialize_cases (p : Packet) :
    (serialize p = none ∧ (p.type.sendable = false ∨ p.encoding = none ∨ ∃ n bytes, p.encoding = some (n, bytes) ∧ 65536 ≤ n)) ∨
    (∃ n bytes, p.type.sendable = true ∧ p.encoding = some (n, bytes) ∧ n < 65536 ∧
      serialize p = some (p.type.code :: BitVec.ofNat 8 (n % 256) :: BitVec.ofNat 8 (n / 256) :: bytes)) := by
  cases hs : p.type.sendable with
  | false => exact .inl ⟨by simp [serialize, hs], .inl rfl⟩
  | true =>
    rcases he : p.encoding with _ | ⟨n, bytes⟩
    · exact .inl ⟨by simp [serialize, he], .inr (.inl rfl)⟩
    · by_cases hn : n < 65536
      · exact .inr ⟨n, bytes, rfl, rfl, hn, by simp [serialize, hs, he, hn, le16_ofNat]⟩
      · exact .inl ⟨by simp [serialize, he, hn], .inr (.inr ⟨n, bytes, rfl, by omega⟩)⟩

/-- A sendable packet whose header counts its payload, serialized. -/
theorem serialize_counted (p : Packet) (payload : List Byte) (hs : p.type.sendable = true)
    (he : p.encoding = counted payload) (hn : payload.length < 65536) :
    serialize p = some (p.type.code :: BitVec.ofNat 8 (payload.length % 256) :: BitVec.ofNat 8 (payload.length / 256) ::
      payload) := by
  simp [serialize, hs, he, counted, hn, le16_ofNat]

end Sys2Proof.Machine
end

