-- ==== Sys2Proof/Laws/Decode.lean ====
section
/-! SUPPORT. The widths of the types, the two fields of a command word, and what `decodeCmd` reads from them. -/

namespace Sys2Proof

/-! ### The widths (spec/00_scope.md R9) -/

@[simp] theorem ksf_symW : Config.ksf.symW = 8 := rfl
@[simp] theorem ksf_crcW : Config.ksf.crcW = 16 := rfl
@[simp] theorem ksf_cmdW : Config.ksf.cmdW = 12 := rfl

/-! ### The fields of a command word -/

@[simp] theorem opOf_cmdWord (op : BitVec 4) (d : Byte) : opOf (cmdWord op d) = op := by
  apply BitVec.eq_of_getLsbD_eq
  intro i hi
  simp only [opOf, cmdWord, BitVec.getLsbD_extractLsb', BitVec.getLsbD_append]
  simp [hi]

@[simp] theorem dinOf_cmdWord (op : BitVec 4) (d : Byte) : dinOf (cmdWord op d) = d := by
  apply BitVec.eq_of_getLsbD_eq
  intro i hi
  simp only [dinOf, cmdWord, BitVec.getLsbD_extractLsb', BitVec.getLsbD_append]
  simp [hi]

/-- A command word is its two fields. -/
theorem cmdWord_opOf_dinOf (w : Cmd) : cmdWord (opOf w) (dinOf w) = w := by
  apply BitVec.eq_of_getLsbD_eq
  intro i hi
  simp only [cmdWord, opOf, dinOf, BitVec.getLsbD_append, BitVec.getLsbD_extractLsb']
  by_cases h : i < 8
  · simp [h]
  · have h4 : i - 8 < 4 := by omega
    have h8 : 8 + (i - 8) = i := by omega
    simp [h, h4, h8]

end Sys2Proof
end

