-- ==== Sys2Proof/Laws/PerInstr.lean ====
section
/-! SUPPORT. A fact about every operation as syntax, one lemma a constructor: its encoding is a word of 8 or of 16 bits as
spec/opcode_table.json numbers them (spec/30_encoding.md R79). -/

namespace Sys2Proof.Laws.TableWord

/-- The encoding of the operation is the layout of a word of the opcode table's width. -/
def Statement (i : Instr) : Prop := ∃ n w, (n = 8 ∨ n = 16) ∧ w < 2 ^ n ∧ layOut n w = encode i

/-- A command word of the table. -/
theorem of_cmd {i : Instr} (v : Cmd) (h : encode i = [.cmd v]) : Statement i :=
  ⟨16, v.toNat, .inr rfl, by omega, by simp [h, layOut, v.isLt]⟩

/-- A one-byte symbol of the table. -/
theorem of_byte {i : Instr} (b : Byte) (h : encode i = [.wire b]) : Statement i :=
  ⟨8, b.toNat, .inl rfl, by omega, by simp [h, layOut, b.isLt]⟩

/-- A two-byte symbol of the table: the ESC in bits 15..8, the code byte in bits 7..0. -/
theorem of_pair {i : Instr} (c : Byte) (h : encode i = [.wire 0xDB, .wire c]) : Statement i := by
  have hc := c.isLt
  refine ⟨16, 0xDB00 + c.toNat, .inr rfl, by omega, ?_⟩
  have hi : (0xDB00 + c.toNat) / 2 ^ 8 = 0xDB := by omega
  have lo : (0xDB00 + c.toNat) % 2 ^ 8 = c.toNat := by omega
  have h12 : ¬ 0xDB00 + c.toNat < 2 ^ 12 := by omega
  have h16 : 0xDB00 + c.toNat < 2 ^ 16 := by omega
  simp only [h, layOut, ksf_symW, ksf_cmdW, h12, h16, hi, lo]
  simp

theorem crcClr : Statement .crcClr := of_cmd _ rfl
theorem crcUpd (din : Byte) : Statement (.crcUpd din) := of_cmd _ rfl
theorem crcRd : Statement .crcRd := of_cmd _ rfl
theorem encSof : Statement .encSof := of_cmd _ rfl
theorem encByte (din : Byte) : Statement (.encByte din) := of_cmd _ rfl
theorem encEof : Statement .encEof := of_cmd _ rfl
theorem decByte (din : Byte) : Statement (.decByte din) := of_cmd _ rfl
theorem decRst : Statement .decRst := of_cmd _ rfl
theorem symStart : Statement .symStart := of_byte _ rfl
theorem symEnd : Statement .symEnd := of_byte _ rfl
theorem symEsc : Statement .symEsc := of_byte _ rfl
theorem symData (byte : Byte) : Statement (.symData byte) := of_byte _ rfl
theorem symEscStart : Statement .symEscStart := of_pair _ rfl
theorem symEscEnd : Statement .symEscEnd := of_pair _ rfl
theorem symEscEsc : Statement .symEscEsc := of_pair _ rfl
theorem symEscBad (code : Byte) : Statement (.symEscBad code) := of_pair _ rfl

end Sys2Proof.Laws.TableWord
end

