-- ==== Sys2Proof/Tests/Slice0.lean ====
section
/-! SUPPORT. The model's own tests. Every expected value is written out from the spec: the encodings of spec/30_encoding.md, the
examples of the operations' own rules, and the vectors of spec/95_test_vectors.md. -/

namespace Sys2Proof.Machine

/-- A small state with nothing issued and no outputs. -/
def st (crc : Word) (esc : Bool) (buf : List Byte) (input : List Input := []) : State := ⟨crc, esc, buf, .empty, input⟩

/-- The part of an outcome that a test looks at. -/
def look {α : Type} (f : State → α) : Result → Option α
  | .next s => some (f s)
  | .fault _ | .refused _ => none

/-- The registers and the outputs after an outcome. -/
def seen : Result → Option (Word × Bool × List Byte × Outputs) := look fun s => (s.crc, s.esc, s.buf, s.outs)

/-! ### WellFormed: an ill-formed term for each check, and its neighbours that are well formed (R67, R68) -/

theorem test_symData_refuses_markers :
    [0xA5#8, 0xC0#8, 0xDB#8].all (fun b => !(Instr.symData b).wellFormed) = true := by decide
theorem test_symData_takes_mapped_codes :
    [0xDE#8, 0xDC#8, 0xDD#8, 0xA4#8, 0xC1#8, 0xDA#8].all (fun b => (Instr.symData b).wellFormed) = true := by decide
theorem test_symEscBad_refuses_mapped_codes :
    [0xDE#8, 0xDC#8, 0xDD#8].all (fun c => !(Instr.symEscBad c).wellFormed) = true := by decide
theorem test_symEscBad_takes_markers :
    [0xA5#8, 0xC0#8, 0xDB#8, 0xDF#8].all (fun c => (Instr.symEscBad c).wellFormed) = true := by decide

/-! ### Decoding: a word of each row, bit by bit from the encoding column of the table (R61, R62, R67, R68) -/

theorem test_decode_crcClr : decodeTableWord 16 0b0000_0000_1111_1111 = some .crcClr := by decide
theorem test_decode_crcUpd : decodeTableWord 16 0b0000_0001_1011_0101 = some (.crcUpd 0xB5) := by decide
theorem test_decode_crcRd : decodeTableWord 16 0b0000_0010_0000_0000 = some .crcRd := by decide
theorem test_decode_encSof : decodeTableWord 16 0b0000_0100_1111_1111 = some .encSof := by decide
theorem test_decode_encByte : decodeTableWord 16 0b0000_0101_1101_1011 = some (.encByte 0xDB) := by decide
theorem test_decode_encEof : decodeTableWord 16 0b0000_0110_0000_0001 = some .encEof := by decide
theorem test_decode_decByte : decodeTableWord 16 0b0000_1000_0000_0010 = some (.decByte 0x02) := by decide
theorem test_decode_decRst : decodeTableWord 16 0b0000_1001_1000_0000 = some .decRst := by decide
theorem test_decode_symStart : decodeTableWord 8 0b1010_0101 = some .symStart := by decide
theorem test_decode_symEnd : decodeTableWord 8 0b1100_0000 = some .symEnd := by decide
theorem test_decode_symEsc : decodeTableWord 8 0b1101_1011 = some .symEsc := by decide
theorem test_decode_symData : decodeTableWord 8 0b1101_1100 = some (.symData 0xDC) := by decide
theorem test_decode_symEscStart : decodeTableWord 16 0b1101_1011_1101_1110 = some .symEscStart := by decide
theorem test_decode_symEscEnd : decodeTableWord 16 0b1101_1011_1101_1100 = some .symEscEnd := by decide
theorem test_decode_symEscEsc : decodeTableWord 16 0b1101_1011_1101_1101 = some .symEscEsc := by decide
theorem test_decode_symEscBad : decodeTableWord 16 0b1101_1011_0000_0000 = some (.symEscBad 0x00) := by decide
theorem test_decode_reserved :
    [0x300, 0x7FF, 0xA00, 0xB01, 0xC00, 0xD80, 0xE00, 0xF12].all (fun w => decodeTableWord 16 w == none) = true := by decide
/-- The sixteen rows, placed and run as the first operation after reset: each completes. -/
theorem test_rows_run_first :
    ([(16, 0x000), (16, 0x100), (16, 0x200), (16, 0x400), (16, 0x500), (16, 0x600), (16, 0x800), (16, 0x900), (8, 0xA5),
        (8, 0xC0), (8, 0xDB), (8, 0x00), (16, 0xDBDE), (16, 0xDBDC), (16, 0xDBDD), (16, 0xDB00)].all
      fun p => (look State.input (step (State.reset.withFetchWord p.1 p.2)) == some [])) = true := by decide

/-! ### The CRC generator (95 section 2, R105 to R108) -/

theorem test_crcClr : seen (exec .crcClr (st 0x2189 true [1])) = some (0x0000, true, [1], .empty) := by decide
theorem test_crcUpd_31 : seen (exec (.crcUpd 0x31) (st 0 false [])) = some (0x200A, false, [], .empty) := by decide
theorem test_crcUpd_32 : seen (exec (.crcUpd 0x32) (st 0x200A false [])) = some (0xBDEB, false, [], .empty) := by decide
theorem test_crcRd :
    seen (exec .crcRd (st 0x2189 false [])) = some (0x2189, false, [], ⟨[], some 0x2189, .none, none⟩) := by decide
theorem test_crcUpd_command_131 : look State.crc (step (st 0 false [] [.cmd 0x131])) = some 0x200A := by decide
theorem test_poly_form : Config.ksf.crcPoly = (0x1021#16).reverse := by decide

/-- The table of R108, rows 0x00 to 0x38. -/
def crcRows0 : List Word :=
  [0x0000, 0x1189, 0x2312, 0x329B, 0x4624, 0x57AD, 0x6536, 0x74BF] ++
  [0x8C48, 0x9DC1, 0xAF5A, 0xBED3, 0xCA6C, 0xDBE5, 0xE97E, 0xF8F7] ++
  [0x1081, 0x0108, 0x3393, 0x221A, 0x56A5, 0x472C, 0x75B7, 0x643E] ++
  [0x9CC9, 0x8D40, 0xBFDB, 0xAE52, 0xDAED, 0xCB64, 0xF9FF, 0xE876] ++
  [0x2102, 0x308B, 0x0210, 0x1399, 0x6726, 0x76AF, 0x4434, 0x55BD] ++
  [0xAD4A, 0xBCC3, 0x8E58, 0x9FD1, 0xEB6E, 0xFAE7, 0xC87C, 0xD9F5] ++
  [0x3183, 0x200A, 0x1291, 0x0318, 0x77A7, 0x662E, 0x54B5, 0x453C] ++
  [0xBDCB, 0xAC42, 0x9ED9, 0x8F50, 0xFBEF, 0xEA66, 0xD8FD, 0xC974]
/-- The table of R108, rows 0x40 to 0x78. -/
def crcRows1 : List Word :=
  [0x4204, 0x538D, 0x6116, 0x709F, 0x0420, 0x15A9, 0x2732, 0x36BB] ++
  [0xCE4C, 0xDFC5, 0xED5E, 0xFCD7, 0x8868, 0x99E1, 0xAB7A, 0xBAF3] ++
  [0x5285, 0x430C, 0x7197, 0x601E, 0x14A1, 0x0528, 0x37B3, 0x263A] ++
  [0xDECD, 0xCF44, 0xFDDF, 0xEC56, 0x98E9, 0x8960, 0xBBFB, 0xAA72] ++
  [0x6306, 0x728F, 0x4014, 0x519D, 0x2522, 0x34AB, 0x0630, 0x17B9] ++
  [0xEF4E, 0xFEC7, 0xCC5C, 0xDDD5, 0xA96A, 0xB8E3, 0x8A78, 0x9BF1] ++
  [0x7387, 0x620E, 0x5095, 0x411C, 0x35A3, 0x242A, 0x16B1, 0x0738] ++
  [0xFFCF, 0xEE46, 0xDCDD, 0xCD54, 0xB9EB, 0xA862, 0x9AF9, 0x8B70]
/-- The table of R108, rows 0x80 to 0xB8. -/
def crcRows2 : List Word :=
  [0x8408, 0x9581, 0xA71A, 0xB693, 0xC22C, 0xD3A5, 0xE13E, 0xF0B7] ++
  [0x0840, 0x19C9, 0x2B52, 0x3ADB, 0x4E64, 0x5FED, 0x6D76, 0x7CFF] ++
  [0x9489, 0x8500, 0xB79B, 0xA612, 0xD2AD, 0xC324, 0xF1BF, 0xE036] ++
  [0x18C1, 0x0948, 0x3BD3, 0x2A5A, 0x5EE5, 0x4F6C, 0x7DF7, 0x6C7E] ++
  [0xA50A, 0xB483, 0x8618, 0x9791, 0xE32E, 0xF2A7, 0xC03C, 0xD1B5] ++
  [0x2942, 0x38CB, 0x0A50, 0x1BD9, 0x6F66, 0x7EEF, 0x4C74, 0x5DFD] ++
  [0xB58B, 0xA402, 0x9699, 0x8710, 0xF3AF, 0xE226, 0xD0BD, 0xC134] ++
  [0x39C3, 0x284A, 0x1AD1, 0x0B58, 0x7FE7, 0x6E6E, 0x5CF5, 0x4D7C]
/-- The table of R108, rows 0xC0 to 0xF8. -/
def crcRows3 : List Word :=
  [0xC60C, 0xD785, 0xE51E, 0xF497, 0x8028, 0x91A1, 0xA33A, 0xB2B3] ++
  [0x4A44, 0x5BCD, 0x6956, 0x78DF, 0x0C60, 0x1DE9, 0x2F72, 0x3EFB] ++
  [0xD68D, 0xC704, 0xF59F, 0xE416, 0x90A9, 0x8120, 0xB3BB, 0xA232] ++
  [0x5AC5, 0x4B4C, 0x79D7, 0x685E, 0x1CE1, 0x0D68, 0x3FF3, 0x2E7A] ++
  [0xE70E, 0xF687, 0xC41C, 0xD595, 0xA12A, 0xB0A3, 0x8238, 0x93B1] ++
  [0x6B46, 0x7ACF, 0x4854, 0x59DD, 0x2D62, 0x3CEB, 0x0E70, 0x1FF9] ++
  [0xF78F, 0xE606, 0xD49D, 0xC514, 0xB1AB, 0xA022, 0x92B9, 0x8330] ++
  [0x7BC7, 0x6A4E, 0x58D5, 0x495C, 0x3DE3, 0x2C6A, 0x1EF1, 0x0F78]

/-- The whole table of R108, computed by the definition of R103. -/
theorem test_crc_table :
    (List.range 256).map (fun i => crcTable Config.ksf (BitVec.ofNat 8 i)) = crcRows0 ++ crcRows1 ++ crcRows2 ++ crcRows3 := by
  decide +kernel

theorem test_crc16_check_value :
    crc16 Config.ksf [0x31, 0x32, 0x33, 0x34, 0x35, 0x36, 0x37, 0x38, 0x39] = 0x2189 := by decide +kernel
theorem test_crc16_scenario_b : crc16 Config.ksf [0x11, 0x04, 0x00, 0x80, 0xA3, 0x31, 0x37] = 0x1D2B := by decide +kernel
theorem test_crcAppend_pong : crcAppend Config.ksf [0x80, 0x00, 0x00] = [0x80, 0x00, 0x00, 0xEC, 0x0C] := by decide +kernel
theorem test_crcCheck_big_endian_order :
    crcCheck Config.ksf [0x80, 0x00, 0x00, 0x0C, 0xEC] = .error .crcMismatch := by decide +kernel
theorem test_crcCheck_short : crcCheck Config.ksf [0x00] = .error .truncated ∧ crcCheck Config.ksf [0x00, 0x00] = .ok [] := by
  decide +kernel

/-! ### The SLIP encoder (95 section 3) -/

theorem test_encSof_ignores_din : look State.outs (step (st 0 false [] [.cmd 0x4FF])) = some ⟨[0xA5], none, .none, none⟩ := by
  decide
theorem test_encByte_start : seen (exec (.encByte 0xA5) (st 7 true [3])) = some (7, true, [3], ⟨[0xDB, 0xDE], none, .none, none⟩) := by
  decide
theorem test_encByte_mapped_code_is_plain : look State.outs (exec (.encByte 0xDE) (st 0 false [])) = some ⟨[0xDE], none, .none, none⟩ := by
  decide
theorem test_encEof : look State.outs (exec .encEof (st 0 false [])) = some ⟨[0xC0], none, .none, none⟩ := by decide
theorem test_slipEncode_escapes :
    slipEncode [0xA5, 0xC0, 0xDB] = [0xA5, 0xDB, 0xDE, 0xDB, 0xDC, 0xDB, 0xDD, 0xC0] := by decide

/-! ### The SLIP decoder (95 section 4.1) -/

theorem test_decByte_mapped_code_outside_escape :
    seen (exec (.decByte 0xDE) (st 0 false [])) = some (0, false, [0xDE], .empty) := by decide
theorem test_decByte_esc_as_bad_code :
    seen (exec (.decByte 0xDB) (st 5 true [1])) = some (5, false, [], ⟨[], none, .framingError, none⟩) := by decide
theorem test_decRst : seen (step (st 9 true [1, 2] [.cmd 0x900])) = some (9, false, [], .empty) := by decide
theorem test_symStart : seen (step (st 0 false [1, 2] [.wire 0xA5])) = some (0, false, [], .empty) := by decide
theorem test_symEnd : seen (step (st 0 false [1, 2] [.wire 0xC0])) = some (0, false, [], ⟨[], none, .frame [1, 2], none⟩) := by
  decide
theorem test_symEnd_empty : look State.outs (step (st 0 false [] [.wire 0xC0])) = some ⟨[], none, .frame [], none⟩ := by decide
theorem test_symEsc : seen (step (st 0 false [1] [.wire 0xDB])) = some (0, true, [1], .empty) := by decide
theorem test_symData : seen (step (st 0 false [1] [.wire 0x02])) = some (0, false, [1, 2], .empty) := by decide
theorem test_symEscStart : seen (step (st 0 true [1] [.wire 0xDE])) = some (0, false, [1, 0xA5], .empty) := by decide
theorem test_symEscEnd : seen (step (st 0 true [1] [.wire 0xDC])) = some (0, false, [1, 0xC0], .empty) := by decide
theorem test_symEscEsc : seen (step (st 0 true [1] [.wire 0xDD])) = some (0, false, [1, 0xDB], .empty) := by decide
theorem test_symEscBad_end : seen (step (st 3 true [1] [.wire 0xC0])) = some (3, false, [], ⟨[], none, .framingError, none⟩) := by
  decide
/-- 95 program P5, rows 7 and 8: a reserved word changes nothing and the next input is taken. -/
theorem test_illegalOp :
    step (st 4 true [1] [.cmd 0x300, .cmd 0xF12]) = .next ⟨4, true, [1], ⟨[], none, .none, some 0x300⟩, [.cmd 0xF12]⟩ := by rfl
theorem test_statusCodes :
    Outputs.empty.statusCode = 0 ∧ (Outputs.ofEvent (.frame [])).statusCode = 1 ∧
      (Outputs.ofEvent .framingError).statusCode = 2 ∧ (RxResult.corrupted .truncated).statusCode = some 3 ∧
      (RxResult.corrupted .crcMismatch).statusCode = some 4 ∧
      Outputs.statusCode ⟨[], none, .none, some 0x300⟩ = 7 := by decide

/-! ### Streams and paths (95 sections 4.2 and 5) -/

theorem test_decFeed_tail_of_damaged_frame :
    (decFeed ⟨[], false⟩ [0xA5, 0x01, 0x02, 0xDB, 0x00, 0x03, 0x04, 0xC0, 0xA5, 0x05, 0xC0]).2 =
      [.framingError, .frame [0x03, 0x04], .frame [0x05]] := by decide
theorem test_decFeed_end_eaten_by_bad_escape :
    (decFeed ⟨[], false⟩ [0xA5, 0x01, 0xDB, 0xC0, 0xA5, 0x05, 0xC0]).2 = [.framingError, .frame [0x05]] := by decide
theorem test_decFeed_noise_dropped_by_start :
    decFeed ⟨[], false⟩ [0x09, 0x09, 0xA5, 0x01, 0x02, 0xC0] = (⟨[], false⟩, [.frame [0x01, 0x02]]) := by decide
theorem test_txSend_escaped_checksum :
    txSend [0x00, 0x01, 0x00, 0x73] = [0xA5, 0x00, 0x01, 0x00, 0x73, 0xDB, 0xDC, 0x1B, 0xC0] := by decide +kernel
theorem test_rxFeed_damaged_then_good :
    (rxFeed ⟨[], false⟩ [0xA5, 0x01, 0x02, 0xDB, 0x00, 0x03, 0xC0, 0xA5, 0x80, 0x00, 0x00, 0xEC, 0x0C, 0xC0]).2 =
      [.framingError, .corrupted .truncated, .body [0x80, 0x00, 0x00]] := by decide +kernel

/-! ### The codec, context (R217, 95 sections 1.1 to 1.3) -/

theorem test_serialize_scenario_b :
    serialize (.radioFreqConfig 926000000) = some [0x11, 0x04, 0x00, 0x80, 0xA3, 0x31, 0x37] := by decide +kernel
theorem test_sendPacket_scenario_a :
    sendPacket .ping = some [0xA5, 0x00, 0x00, 0x00, 0x00, 0x00, 0xC0] := by decide +kernel
/-- R210: 2 + 8 + 2 bytes, and a sync word of 2 bytes as it stands. -/
theorem test_lora_payload_ends : ∀ c : LoraConfig, c.syncWord = [0x34, 0x44] → c.payload.length = 12 ∧
    c.payload.drop 10 = [0x34, 0x44] := by
  intro c h; simp [LoraConfig.payload, h, syncBytes, le16]
/-- R212: an empty header only. -/
theorem test_serialize_radioSend_empty : serialize (.radioSend []) = some [0x42, 0x00, 0x00] := by decide +kernel
/-- R215: a receive-only variant is not sent. -/
theorem test_serialize_receive_only : serialize (.radioReceivedPacket (-10) 5 [0x01]) = none := by decide +kernel
theorem test_codec_scenario_c :
    deserializeBody Config.ksf [0xC1, 0x10, 0x00, 0xF6, 0xFF, 0x05, 0x00, 0x01, 0x02, 0x03, 0x04, 0x05, 0x06] =
      .error (.corrupted .length) := by decide +kernel
theorem test_codec_received_packet :
    deserializeBody Config.ksf [0xC1, 0x05, 0x00, 0xF6, 0xFF, 0x05, 0x00, 0x01] = .packet (.radioReceivedPacket (-10) 5 [0x01]) := by
  decide +kernel
theorem test_codec_three_classes :
    deserializeBody Config.ksf [0x13, 0x00, 0x00] = .softSkip 0x13 ∧
      deserializeBody Config.ksf [0x77, 0x00, 0x00] = .error (.type 0x77) ∧
      deserializeBody Config.ksf [0x40, 0x00, 0x00] = .error (.notDeserializable .radioGoSleep) ∧
      deserializeBody Config.ksf [0x40, 0x00] = .error (.corrupted .truncated) := by decide +kernel

/-! ### Witnesses: for each statement with hypotheses, concrete values that meet all of them -/

theorem witness_StepRunsTheDecodedOperation :
    ∃ (s : State) (x : Input) (rest : List Input) (i : Instr), s.input = x :: rest ∧ decodeInput s.esc x = .ok i :=
  ⟨st 0 true [] [.wire 0xDE], .wire 0xDE, [], .symEscStart, by decide, by decide⟩
theorem witness_IdleStepKeepsRegisters : ∃ s : State, s.input = [] ∧ s.buf ≠ [] := ⟨st 0 true [1], by decide, by decide⟩
theorem witness_CommandWordSelectsTheTableRow :
    [(0x0FF#12, 0x000#12), (0x1FF#12, 0x100#12), (0x2FF#12, 0x200#12), (0x4FF#12, 0x400#12), (0x5FF#12, 0x500#12),
      (0x6FF#12, 0x600#12), (0x8FF#12, 0x800#12), (0x9FF#12, 0x900#12)].all (fun p => p.1 &&& 0xF00 == p.2) = true ∧
    [0x3FF#12, 0x7FF#12, 0xA00#12, 0xFFF#12].all (fun w => [0x300#12, 0x700#12, 0xA00#12, 0xF00#12].contains (w &&& 0xF00)) =
      true := by decide
theorem witness_EncodeThenDecodeReturnsTheOperation :
    (Instr.symData 0xDE).wellFormed = true ∧ (Instr.symEscBad 0xC0).wellFormed = true ∧ (Instr.crcUpd 0xFF).wellFormed = true := by
  decide
theorem witness_DecodedOperationIsWellFormed :
    (decodeInput true (.wire 0x00)).toOption = some (.symEscBad 0x00) ∧ (decodeCmd 0x8FF).toOption = some (.decByte 0xFF) ∧
      (0x8FF#12 &&& 0xF00) ∈ [0x100#12, 0x500#12, 0x800#12] := by decide
theorem witness_ReservedCommandReportsIllegalOpAndChangesNothing :
    (st 0 false [] [.cmd 0xFFF]).input = .cmd 0xFFF :: [] ∧
      0xFFF#12 &&& 0xF00 ∈ [0x300#12, 0x700#12, 0xA00#12, 0xB00#12, 0xC00#12, 0xD00#12, 0xE00#12, 0xF00#12] := by decide
theorem witness_CrcIsLinearForZeroInitAndXorOut :
    Config.ksf.crcInit = 0 ∧ Config.ksf.crcXorOut = 0 ∧ [0x01#8, 0x02#8].length = [0x10#8, 0x20#8].length := by decide
theorem witness_CheckPassesExactlyOnZeroResidue : 2 ≤ [0x00#8, 0x00#8].length := by decide
theorem witness_AnySingleBitErrorFailsTheCheck :
    0 < 8 * (crcAppend Config.ksf []).length ∧ 15 < 8 * (crcAppend Config.ksf []).length := by decide +kernel
theorem witness_CrcCheckRunsToItsResult : ([] : List Byte).length < 2 ∧ [0x00#8].length < 2 := by decide
theorem witness_EscapeTablesAreInverse :
    (0xDE#8 ≠ 0xA5 ∧ 0xDE#8 ≠ 0xC0 ∧ 0xDE#8 ≠ 0xDB) ∧ (0xA5#8 ≠ 0xDE ∧ 0xA5#8 ≠ 0xDC ∧ 0xA5#8 ≠ 0xDD) ∧
      (0xC0#8 ∈ [0xA5#8, 0xC0#8, 0xDB#8] ∧ escOf 0xC0 = [0xDB, 0xDC]) := by decide
theorem witness_WireFrameHasMarkersOnlyAtItsEnds : (slipEncode [0xA5])[1]? = some 0xDB := by decide
theorem witness_StartDropsAndDataAccumulates :
    (st 0 false [1]).esc = false ∧ 0xDE#8 ≠ 0xA5 ∧ 0xDE#8 ≠ 0xC0 ∧ 0xDE#8 ≠ 0xDB := by decide
theorem witness_EndEmitsTheWholeBuffer : (st 0 false []).esc = false ∧ (st 0 false [1]).esc = false := by decide
theorem witness_EscSetsThePendingFlag : (st 0 false []).esc = false := by decide
theorem witness_EscapePairsStandForTheMarkers : (st 0 true []).esc = true := by decide
theorem witness_BadEscapeTakesTheFramingError :
    (st 0 true [1]).esc = true ∧ 0xDB#8 ≠ 0xDE ∧ 0xDB#8 ≠ 0xDC ∧ 0xDB#8 ≠ 0xDD := by decide
theorem witness_WireByteIsDecByteOfItsSymbol :
    (st 0 false [] [.wire 0xC0]).input = [.wire 0xC0] ∧
      st 0 false [] [.cmd 0x8C0] = ⟨0, false, [], .empty, [.cmd (0x800 ||| (0xC0#8).setWidth 12)]⟩ := by decide
theorem witness_DecRstReturnsTheDecoderToItsInitialState :
    0x9FF#12 &&& 0xF00 = 0x900 ∧ ∃ t, exec .decRst (st 9 true [1]) = .next t := ⟨by decide, _, rfl⟩
theorem witness_EscFlagIsSetByEscAndClearedByTheNextByte :
    ∃ t, step (st 0 false [] [.wire 0xDB]) = .next t ∧ t.esc ≠ (st 0 false [] [.wire 0xDB]).esc := ⟨_, rfl, by decide⟩
theorem witness_FrameComesOnlyFromAnUnescapedEnd :
    (∃ t, step (st 0 false [7] [.cmd 0x8C0]) = .next t ∧ t.outs.ev = .frame [7]) ∧
      ∃ t, (st 0 true [7]).input = [] ∧ step (st 0 true [7]) = .next t := ⟨⟨_, rfl, rfl⟩, _, rfl, rfl⟩
theorem witness_FramingErrorComesOnlyFromABadEscape :
    ∃ t, step (st 0 true [7] [.wire 0xDB]) = .next t ∧ t.outs.ev = .framingError := ⟨_, rfl, rfl⟩
theorem witness_OperationsTouchOnlyTheirRegisters :
    (∃ t, exec (.crcUpd 1) (st 0 false []) = .next t ∧ t.crc ≠ 0) ∧
      (∃ t, exec (.decByte 1) (st 0 false []) = .next t ∧ t.buf ≠ []) ∧
      ∃ t, exec .symEnd (st 0 false []) = .next t ∧ t.outs.ev ≠ .none :=
  ⟨⟨_, rfl, by decide⟩, ⟨_, rfl, by decide⟩, _, rfl, by decide⟩
theorem witness_ReadingAndEncodingRepeat :
    (∃ i : Instr, i = .crcRd ∨ i = .encSof ∨ i = .encEof ∨ ∃ d, i = .encByte d) ∧ ∃ i : Instr, i = .crcClr ∨ i = .decRst :=
  ⟨⟨.encByte 0xA5, .inr (.inr (.inr ⟨_, rfl⟩))⟩, .decRst, .inr rfl⟩
theorem witness_BufferGrowsWithoutLimit :
    (∀ b ∈ [0xDE#8, 0x00#8], b ≠ 0xA5 ∧ b ≠ 0xC0 ∧ b ≠ 0xDB) ∧ [0x01#8].length ≤ 1 ∧ [0x01#8].length ≤ 2 ∧
      bufAppend (some 2) [0x01] 0x02 = some [0x01, 0x02] := by decide
theorem witness_SentPacketIsReceivedAsItsBody : (st 5 false [1, 2]).esc = false := by decide
theorem witness_IssuedCommandsRunInOrder :
    (∀ i ∈ [Instr.crcClr, .decByte 0xC0, .encByte 0xA5], i.isCommand = true) ∧ (st 0 false [] [.wire 1]).input = [.wire 1] := by
  decide
theorem witness_EveryStepsOutputsAgreeWithTheRegisters : ∃ t, step (st 3 false [] [.cmd 0x200]) = .next t := ⟨_, rfl⟩
theorem witness_DecoderAndGeneratorDoNotInfluenceEachOther :
    ((st 1 true [2] [.wire 3]).buf = (st 9 true [2] [.wire 3]).buf ∧ (st 1 true [2] [.wire 3]).esc = (st 9 true [2] [.wire 3]).esc ∧
      (st 1 true [2] [.wire 3]).input = (st 9 true [2] [.wire 3]).input) ∧
    (st 1 true [2] [.cmd 0x200]).crc = (st 1 false [] [.cmd 0x200]).crc ∧
      (st 1 true [2] [.cmd 0x200]).input = (st 1 false [] [.cmd 0x200]).input := by decide
theorem witness_HeaderOfASerializedPacketIsReadBack :
    serialize (.radioFreqConfig 1) = some [0x11, 4, 0, 1, 0, 0, 0] ∧ (∀ b l, Packet.radioFreqConfig 1 ≠ .radioSend (b :: l)) ∧
      (4 ≤ [0x01#8, 0, 0, 0].length ∧ 3 ≤ 3 ∧ 3 < 3 + 4 ∧ 3 ≤ 6 ∧ 6 < 3 + 4 ∧ 6 ≤ 7) :=
  ⟨by decide +kernel, nofun, by decide⟩
theorem witness_SendOnlyPacketIsNeverDeserialized :
    PacketType.radioSend ∈ [PacketType.radioPhyConfig, .radioFreqConfig, .radioLoraConfig, .enterSleepStop2, .radioGoSleep,
      .radioGoIdle, .radioSend, .radioRecvStart] ∧
      deserializeHeader Config.ksf [0x42, 0, 0] = .ok (PacketType.radioSend.code, []) := by decide +kernel
theorem witness_PacketsSerializeInTheirLayouts :
    2 ≤ [0x12#8, 0x34#8, 0x56#8].length ∧ 2 ≤ [0x12#8, 0x34#8].length ∧ [0x12#8, 0x34#8].length ≤ 2 ∧
      ([] : List Byte).length ≤ 2 := by decide

end Sys2Proof.Machine
end

section
/-! PROOFS of the family 00_scope.md: the parameters of R9, each by the lemma that names its value. -/

namespace Sys2Proof

/-! ### The widths of the types (R9) -/

/-- A byte is one wire symbol of `SYM_W` bits. -/
theorem byte_eq_bitVec_symW : Byte = BitVec Config.ksf.symW := rfl

/-- A word is one checksum of `CRC_W` bits. -/
theorem word_eq_bitVec_crcW : Word = BitVec Config.ksf.crcW := rfl

/-- A command word has `CMD_W` bits (D2). -/
theorem cmd_eq_bitVec_cmdW : Cmd = BitVec Config.ksf.cmdW := rfl

/-! ### The CRC parameters (R100, GK1) -/

@[simp] theorem ksf_crcPoly : Config.ksf.crcPoly = 0x8408#16 := rfl
@[simp] theorem ksf_crcRefIn : Config.ksf.crcRefIn = true := rfl
@[simp] theorem ksf_crcRefOut : Config.ksf.crcRefOut = true := rfl
@[simp] theorem ksf_crcXorOut : Config.ksf.crcXorOut = 0x0000#16 := rfl

open Machine in
/-- Settles O60: the values of R9's table are those of the record, row by row. The bit reversal of 0x1021 (GK1) is the one row
that is computed and not read off. -/
theorem parametersHaveTheirStatedValues : Obligations.ParametersHaveTheirStatedValues := by
  unfold Obligations.ParametersHaveTheirStatedValues
  exact ⟨ksf_symW, ksf_crcW, ksf_cmdW, byte_eq_bitVec_symW, word_eq_bitVec_crcW, cmd_eq_bitVec_cmdW,
    ksf_start, ksf_stop, ksf_esc, ksf_escStart, ksf_escEnd, ksf_escEsc,
    ksf_crcPoly, ksf_crcPoly_reversed, ksf_crcInit, ksf_crcRefIn, ksf_crcRefOut, ksf_crcXorOut,
    ksf_crcByteOrder, ksf_bufCap⟩

end Sys2Proof
end

section
/-! PROOFS of the family 10_state.md: the flag `esc` after each wire symbol and hence after DEC.BYTE, and the inversion of
`decodeCmd` that says which commands can change it. -/

namespace Sys2Proof

/-! ### Command words -/

/-- The mask of `cmd[11:8]` keeps the `op` field and zeroes the operand (R61). -/
theorem and_opMask_eq_cmdWord (w : Cmd) : w &&& 0xF00 = cmdWord (opOf w) 0 := by
  apply BitVec.eq_of_getLsbD_eq
  intro i hi
  simp only [cmdWord, opOf, BitVec.getLsbD_and, BitVec.getLsbD_append, BitVec.getLsbD_extractLsb']
  interval_cases i <;> simp

/-- Everything a command word can decode to, by its `op` field (R62). -/
theorem decodeCmd_ok_cases {w : Cmd} {i : Instr} (h : decodeCmd w = .ok i) :
    (opOf w = 0x0#4 ∧ i = .crcClr) ∨ (opOf w = 0x1#4 ∧ i = .crcUpd (dinOf w)) ∨ (opOf w = 0x2#4 ∧ i = .crcRd) ∨
    (opOf w = 0x4#4 ∧ i = .encSof) ∨ (opOf w = 0x5#4 ∧ i = .encByte (dinOf w)) ∨ (opOf w = 0x6#4 ∧ i = .encEof) ∨
    (opOf w = 0x8#4 ∧ i = .decByte (dinOf w)) ∨ (opOf w = 0x9#4 ∧ i = .decRst) := by
  unfold decodeCmd at h
  split at h <;> cases h <;> simp [*]

/-! ### Wire symbols -/

/-- A byte is the first half of an escape pair exactly when it is an ESC with no escape pending (R66). -/
theorem classify_eq_esc_iff (esc : Bool) (b : Byte) : classify esc b = .esc ↔ esc = false ∧ b = 0xDB#8 := by
  cases esc with
  | false => rcases Machine.classify_plain_cases b with ⟨rfl, h⟩ | ⟨rfl, h⟩ | ⟨rfl, h⟩ | ⟨-, -, hb, h⟩ <;> simp [*]
  | true => rcases Machine.classify_escaped_cases b with ⟨-, h⟩ | ⟨-, h⟩ | ⟨-, h⟩ | ⟨-, -, -, h⟩ <;> simp [h]

end Sys2Proof

namespace Sys2Proof.Machine

/-! ### The flag after an operation -/

@[simp] theorem emitFrame_esc (s : State) : (emitFrame s).esc = false := rfl
@[simp] theorem takeFramingError_esc (s : State) : (takeFramingError s).esc = false := rfl
@[simp] theorem takeIllegalOp_esc (w : Cmd) (s : State) : (takeIllegalOp w s).esc = s.esc := rfl

/-- DEC.BYTE performs the rule of the symbol that the byte is (R153). -/
theorem exec_decByte_eq_exec_symbol (b : Byte) (s : State) :
    exec (.decByte b) s = exec (classify s.esc b).toInstr s := by
  simp only [exec, execDecByte]
  cases classify s.esc b <;> rfl

/-- Every wire symbol completes, and SYM.ESC is the only one that leaves an escape pending (R154 to R161). -/
theorem exec_symbol_esc (y : Symbol) (s : State) :
    ∃ t, exec y.toInstr s = .next t ∧ (t.esc = true ↔ y = .esc) := by
  cases y <;> exact ⟨_, rfl, by simp⟩

/-- A command that changes `esc` is DEC.BYTE or DEC.RST (R36). -/
theorem op_of_command_changing_esc {w : Cmd} {i : Instr} {s t : State} (hd : decodeCmd w = .ok i)
    (hx : exec i s = .next t) (he : t.esc ≠ s.esc) : opOf w = 0x8#4 ∨ opOf w = 0x9#4 := by
  rcases decodeCmd_ok_cases hd with ⟨-, rfl⟩ | ⟨-, rfl⟩ | ⟨-, rfl⟩ | ⟨-, rfl⟩ | ⟨-, rfl⟩ | ⟨-, rfl⟩ | ⟨hop, -⟩ | ⟨hop, -⟩
  iterate 6
    · cases hx; exact absurd rfl he
  · exact .inl hop
  · exact .inr hop

/-- A step that changes `esc` took a wire byte, or a command word whose `op` field is that of DEC.BYTE or of DEC.RST. -/
theorem input_of_step_changing_esc {s t : State} (ht : step s = .next t) (he : t.esc ≠ s.esc) :
    ∃ x rest, s.input = x :: rest ∧ ((∃ b, x = .wire b) ∨ ∃ w, x = .cmd w ∧ (opOf w = 0x8#4 ∨ opOf w = 0x9#4)) := by
  rcases step_cases s with ⟨-, hs⟩ | ⟨x, rest, i, hin, hd, hs⟩ | ⟨x, rest, w, -, -, hs⟩
  · cases hs.symm.trans ht; exact absurd (State.report_esc s .empty) he
  · refine ⟨x, rest, hin, ?_⟩
    cases x with
    | wire b => exact .inl ⟨b, rfl⟩
    | cmd w => exact .inr ⟨w, rfl, op_of_command_changing_esc hd (hs.symm.trans ht) he⟩
  · cases hs.symm.trans ht; exact absurd (takeIllegalOp_esc w _) he

/-- Settles O38: DEC.BYTE is the symbol its byte classifies to, and only SYM.ESC sets the flag; every other input than a decoder's
keeps it. -/
theorem escFlagIsSetByEscAndClearedByTheNextByte : Obligations.EscFlagIsSetByEscAndClearedByTheNextByte := by
  unfold Obligations.EscFlagIsSetByEscAndClearedByTheNextByte
  constructor
  · intro s b
    obtain ⟨t, ht, hesc⟩ := exec_symbol_esc (classify s.esc b) s
    exact ⟨t, (exec_decByte_eq_exec_symbol b s).trans ht, hesc.trans (classify_eq_esc_iff s.esc b)⟩
  · intro s t ht he
    obtain ⟨x, rest, hin, hx⟩ := input_of_step_changing_esc ht he
    refine ⟨x, rest, hin, hx.imp_right ?_⟩
    rintro ⟨w, rfl, hop⟩
    refine ⟨w, rfl, ?_⟩
    rw [and_opMask_eq_cmdWord]
    exact hop.imp (fun h8 => by rw [h8]; decide) (fun h9 => by rw [h9]; decide)

end Sys2Proof.Machine
end

section
/-! PROOFS of the family 20_memory.md: the order of the two checksum bytes, and where a frame comes from. -/

namespace Sys2Proof.Machine

/-! ### Splitting and joining (R13, R40) -/

/-- The byte pair of a 16-bit value: the remainder by 256, then the quotient (R40). -/
theorem le16_eq_mod_div (c : Word) : le16 c = [BitVec.ofNat 8 (c.toNat % 256), BitVec.ofNat 8 (c.toNat / 256)] := by
  simpa using le16_ofNat c.toNat

@[simp] theorem lo8_u16le (a b : Byte) : lo8 (u16le a b) = a := by
  apply BitVec.eq_of_getLsbD_eq
  intro i hi
  have h16 : i < 16 := by omega
  simp [lo8, u16le, hi, h16]

@[simp] theorem hi8_u16le (a b : Byte) : hi8 (u16le a b) = b := by
  apply BitVec.eq_of_getLsbD_eq
  intro i hi
  have h16 : 8 + i < 16 := by omega
  simp [hi8, u16le, hi, h16]

/-- A received pair is the byte pair of the value it declares; with `u16le_lo8_hi8`, the two are inverse (R40). -/
theorem le16_u16le (a b : Byte) : le16 (u16le a b) = [a, b] := by simp [le16]

/-- Settles O21: the two bytes are those of `le16`, which no parameter record switches (`checksumBytes_eq`). -/
theorem checksumCrossesTheWireLowByteFirst : Obligations.ChecksumCrossesTheWireLowByteFirst := by
  unfold Obligations.ChecksumCrossesTheWireLowByteFirst
  refine ⟨le16_eq_mod_div, fun a b => rfl, le16_u16le, fun k p => ?_⟩
  rw [crcAppend, checksumBytes_eq, le16_eq_mod_div]

/-! ### Events (R46, R155) -/

@[simp] theorem takeIllegalOp_ev (w : Cmd) (s : State) : (takeIllegalOp w s).outs.ev = .none := rfl

/-- With nothing issued the step is the idle one (R260). -/
theorem step_of_input_nil {s : State} (h : s.input = []) : step s = .next (s.report .empty) := by
  simp [step, h, idle]

/-- A byte is SYM.END exactly when it is an END with no escape pending (R66). -/
theorem classify_eq_stop_iff (esc : Bool) (b : Byte) : classify esc b = .stop ↔ esc = false ∧ b = 0xC0#8 := by
  cases esc with
  | false => rcases classify_plain_cases b with ⟨rfl, h⟩ | ⟨rfl, h⟩ | ⟨rfl, h⟩ | ⟨-, hb, -, h⟩ <;> simp [*]
  | true => rcases classify_escaped_cases b with ⟨-, h⟩ | ⟨-, h⟩ | ⟨-, h⟩ | ⟨-, -, -, h⟩ <;> simp [h]

/-- A command that reports an event is DEC.BYTE (R36). -/
theorem decByte_of_command_with_event {w : Cmd} {i : Instr} {s t : State} (hd : decodeCmd w = .ok i)
    (hx : exec i s = .next t) (hev : t.outs.ev ≠ .none) : w = cmdWord 0x8#4 (dinOf w) ∧ i = .decByte (dinOf w) := by
  rcases decodeCmd_ok_cases hd with ⟨-, rfl⟩ | ⟨-, rfl⟩ | ⟨-, rfl⟩ | ⟨-, rfl⟩ | ⟨-, rfl⟩ | ⟨-, rfl⟩ | ⟨hop, hi⟩ | ⟨-, rfl⟩
  iterate 6
    · cases hx; exact absurd rfl hev
  · exact ⟨hop ▸ (cmdWord_opOf_dinOf w).symm, hi⟩
  · cases hx; exact absurd rfl hev

/-- A step that reports an event consumed a byte, from the wire or by DEC.BYTE, and performed the rule of its symbol. -/
theorem byte_of_step_with_event {s t : State} (ht : step s = .next t) (hev : t.outs.ev ≠ .none) :
    ∃ b rest, (s.input = .wire b :: rest ∨ s.input = .cmd (cmdWord 0x8#4 b) :: rest) ∧
      exec (classify s.esc b).toInstr { s with input := rest } = .next t := by
  rcases step_cases s with ⟨-, hs⟩ | ⟨x, rest, i, hin, hd, hs⟩ | ⟨x, rest, w, -, -, hs⟩
  · cases hs.symm.trans ht; exact absurd rfl hev
  · have hx := hs.symm.trans ht
    cases x with
    | wire b => cases hd; exact ⟨b, rest, .inl hin, hx⟩
    | cmd w =>
      obtain ⟨hw, rfl⟩ := decByte_of_command_with_event hd hx hev
      exact ⟨dinOf w, rest, .inr (hw ▸ hin), (exec_decByte_eq_exec_symbol _ _).symm.trans hx⟩
  · cases hs.symm.trans ht; exact absurd (takeIllegalOp_ev w _) hev

/-- SYM.END is the only wire symbol that reports a frame; the frame is the whole buffer, which it clears (R155, R46). -/
theorem exec_symbol_frame {y : Symbol} {s t : State} {f : List Byte} (hx : exec y.toInstr s = .next t)
    (hf : t.outs.ev = .frame f) : y = .stop ∧ f = s.buf ∧ t.buf = [] := by
  cases y with
  | stop => cases hx; cases hf; exact ⟨rfl, rfl, rfl⟩
  | start | esc | data | escStart | escEnd | escEsc | escBad => cases hx; cases hf

/-- Settles O39: an event comes from a consumed byte, a frame only from SYM.END, and SYM.END is an END with no escape pending. -/
theorem frameComesOnlyFromAnUnescapedEnd : Obligations.FrameComesOnlyFromAnUnescapedEnd := by
  unfold Obligations.FrameComesOnlyFromAnUnescapedEnd
  constructor
  · intro s t f ht hf
    obtain ⟨b, rest, hin, hx⟩ := byte_of_step_with_event ht (by simp [hf])
    obtain ⟨hstop, hbuf, hclear⟩ := exec_symbol_frame hx hf
    obtain ⟨hesc, rfl⟩ := (classify_eq_stop_iff s.esc b).mp hstop
    exact ⟨rest, hin, hesc, hbuf, hclear⟩
  · intro s t hin ht
    cases (step_of_input_nil hin).symm.trans ht
    exact ⟨rfl, rfl⟩

end Sys2Proof.Machine
end

section
/-! PROOFS of the family 30_encoding.md: the default rows of the wire symbols and how many bytes they hold, and what the opcode
table's words are read as. -/

namespace Sys2Proof

/-! ### All bytes -/

/-- Every byte once, by value. -/
def allBytes : List Byte := (List.range 256).map (BitVec.ofNat 8)

/-- Counting bytes by their values. -/
theorem countP_range_ofNat (p : Byte → Bool) :
    (List.range 256).countP (fun n => p (BitVec.ofNat 8 n)) = allBytes.countP p :=
  List.countP_map.symm

theorem mem_allBytes (b : Byte) : b ∈ allBytes :=
  List.mem_map.mpr ⟨b.toNat, List.mem_range.mpr b.isLt, by simp⟩

theorem nodup_allBytes : allBytes.Nodup := by
  refine List.Nodup.map_on (fun m hm n hn h => ?_) List.nodup_range
  have hm := List.mem_range.mp hm
  have hn := List.mem_range.mp hn
  have hmod : m % 256 = n % 256 := by simpa using congrArg BitVec.toNat h
  omega

/-- A row of the symbol table that takes every byte but `k` distinct ones holds `256 - k` bytes: the bytes in `l` are `l` again. -/
theorem countP_notMem_allBytes {l : List Byte} (hl : l.Nodup) : allBytes.countP (fun b => b ∉ l) = 256 - l.length := by
  have hperm : (allBytes.filter (fun b => b ∈ l)).Perm l :=
    (List.perm_ext_iff_of_nodup (nodup_allBytes.filter _) hl).mpr fun b => by simp [mem_allBytes]
  have hmem : allBytes.countP (fun b => b ∈ l) = l.length := List.countP_eq_length_filter.trans hperm.length_eq
  have hlen : allBytes.length = 256 := by simp [allBytes]
  have hsplit := List.length_eq_countP_add_countP (fun b => decide (b ∈ l)) (l := allBytes)
  simp only [decide_eq_true_eq] at hsplit
  omega

/-! ### The default rows of the wire symbols (R66) -/

/-- A byte stands for itself exactly when it is none of the three markers. -/
theorem classify_false_eq_data_iff (b : Byte) : classify false b = .data b ↔ b ∉ [0xA5#8, 0xC0#8, 0xDB#8] := by
  rcases Machine.classify_plain_cases b with ⟨rfl, h⟩ | ⟨rfl, h⟩ | ⟨rfl, h⟩ | ⟨h1, h2, h3, h⟩ <;> simp [*]

/-- A byte is a bad code exactly when it is none of the three mapped codes. -/
theorem classify_true_eq_escBad_iff (b : Byte) : classify true b = .escBad b ↔ b ∉ [0xDE#8, 0xDC#8, 0xDD#8] := by
  rcases Machine.classify_escaped_cases b with ⟨rfl, h⟩ | ⟨rfl, h⟩ | ⟨rfl, h⟩ | ⟨h1, h2, h3, h⟩ <;> simp [*]

theorem countP_data : allBytes.countP (fun b => classify false b = .data b) = 253 := by
  simp only [classify_false_eq_data_iff]
  exact countP_notMem_allBytes (by decide)

theorem countP_escBad : allBytes.countP (fun b => classify true b = .escBad b) = 253 := by
  simp only [classify_true_eq_escBad_iff]
  exact countP_notMem_allBytes (by decide)

/-- Settles O7: the rows are the branches of `classify`, and each of the two default rows takes all bytes but three. -/
theorem wireByteHasExactlyOneSymbol : Obligations.WireByteHasExactlyOneSymbol := by
  unfold Obligations.WireByteHasExactlyOneSymbol
  refine ⟨fun b => ?_, fun b => ?_, ?_, ?_⟩
  · rcases Machine.classify_plain_cases b with ⟨rfl, h⟩ | ⟨rfl, h⟩ | ⟨rfl, h⟩ | ⟨h1, h2, h3, h⟩ <;> simp [*]
  · rcases Machine.classify_escaped_cases b with ⟨rfl, h⟩ | ⟨rfl, h⟩ | ⟨rfl, h⟩ | ⟨h1, h2, h3, h⟩ <;> simp [*]
  · exact (countP_range_ofNat fun b => classify false b = .data b).trans countP_data
  · exact (countP_range_ofNat fun b => classify true b = .escBad b).trans countP_escBad

/-! ### The words of the opcode table (R79) -/

/-- Sixteen bits whose four highest are zero are read as a command word. -/
theorem decodeTableWord_command (w : Cmd) : decodeTableWord 16 w.toNat = (decodeCmd w).toOption := by
  simp [decodeTableWord, layOut, decodeWhole, w.isLt]

/-- Eight bits are read as a wire byte with no escape pending. -/
theorem decodeTableWord_byte (b : Byte) : decodeTableWord 8 b.toNat = some (classify false b).toInstr := by
  simp [decodeTableWord, layOut, decodeWhole, b.isLt, Except.toOption]

/-- An ESC in bits 15..8 and a code byte in bits 7..0 are two wire bytes. -/
theorem layOut_escPair (c : Byte) : layOut 16 (0xDB00 + c.toNat) = [.wire 0xDB#8, .wire c] := by
  have hc := c.isLt
  have hi : (0xDB00 + c.toNat) / 2 ^ 8 = 0xDB := by omega
  have lo : (0xDB00 + c.toNat) % 2 ^ 8 = c.toNat := by omega
  have h12 : ¬ 0xDB00 + c.toNat < 2 ^ 12 := by omega
  have h16 : 0xDB00 + c.toNat < 2 ^ 16 := by omega
  simp only [layOut, ksf_symW, ksf_cmdW, h12, h16, hi, lo]
  simp

/-- Sixteen bits whose first byte is an ESC are read as the symbol of the second byte, with the escape pending. -/
theorem decodeTableWord_escPair (c : Byte) :
    decodeTableWord 16 (0xDB00 + c.toNat) = some (classify true c).toInstr := by
  rw [decodeTableWord, layOut_escPair]
  rfl

/-- Settles O8: a word's width and its highest bits say how it is read, and what it stands for is then one row of `decodeCmd` or of
`classify`. -/
theorem decodedWordsAreTheSpecs : Obligations.DecodedWordsAreTheSpecs := by
  unfold Obligations.DecodedWordsAreTheSpecs
  exact ⟨decodeTableWord_command 0x131, decodeTableWord_command 0x2FF, decodeTableWord_command 0x5A5,
    decodeTableWord_command 0x8C0, decodeTableWord_command 0x900, decodeTableWord_command 0x300,
    decodeTableWord_byte 0xA5, decodeTableWord_byte 0xDE, decodeTableWord_escPair 0xDE, decodeTableWord_escPair 0xC0⟩

end Sys2Proof
end

section
/-! PROOFS of the family 42_slip_encoder.md: the two escape tables, the length of a wire frame, and the run of SLIP.ENCODE on the
block. -/

namespace Sys2Proof.Machine

/-! ### The escape tables (R131, R152) -/

/-- A byte that is none of the markers is its own spelling. -/
theorem escOf_of_not_marker {b : Byte} (h₁ : b ≠ 0xA5#8) (h₂ : b ≠ 0xC0#8) (h₃ : b ≠ 0xDB#8) : escOf b = [b] := by
  simpa [h₁, h₂, h₃] using escOf_cases b

/-- A byte that is none of the mapped codes is bad. -/
theorem unesc_of_not_code {b : Byte} (h₁ : b ≠ 0xDE#8) (h₂ : b ≠ 0xDC#8) (h₃ : b ≠ 0xDD#8) : unesc b = none := by
  simp [unesc, h₁, h₂, h₃]

/-- The second byte of a spelling is the code of the byte spelled. -/
theorem unesc_of_escOf_eq_pair {m e c : Byte} (h : escOf m = [e, c]) : unesc c = some m := by
  rcases escOf_cases m with ⟨rfl, hm⟩ | ⟨rfl, hm⟩ | ⟨rfl, hm⟩ | ⟨-, -, -, hm⟩ <;> cases hm.symm.trans h <;> rfl

/-- Settles O25: only a marker has a spelling of two bytes, and its second byte is the code that `unesc` maps back. -/
theorem escapeTablesAreInverse : Obligations.EscapeTablesAreInverse := by
  unfold Obligations.EscapeTablesAreInverse
  exact ⟨⟨rfl, rfl, rfl, fun _ => escOf_of_not_marker⟩, ⟨rfl, rfl, rfl, fun _ => unesc_of_not_code⟩,
    fun _ _ _ => unesc_of_escOf_eq_pair⟩

/-! ### The wire frame (R136, R139) -/

/-- The wire frame, delimiters written out. -/
theorem slipEncode_eq (s : List Byte) : slipEncode s = [0xA5#8] ++ s.flatMap escOf ++ [0xC0#8] := rfl

/-- A byte is spelled by itself, a marker by one byte more. -/
theorem length_escOf (b : Byte) : (escOf b).length = if b = 0xA5 ∨ b = 0xC0 ∨ b = 0xDB then 2 else 1 := by
  rcases escOf_cases b with ⟨rfl, h⟩ | ⟨rfl, h⟩ | ⟨rfl, h⟩ | ⟨h₁, h₂, h₃, h⟩ <;> simp [*]

/-- The spellings of a content take one byte for each of its bytes and one more for each marker. -/
theorem length_flatMap_escOf (s : List Byte) :
    (s.flatMap escOf).length = s.length + s.countP (fun b => b = 0xA5 ∨ b = 0xC0 ∨ b = 0xDB) := by
  induction s with
  | nil => rfl
  | cons b rest ih =>
    rw [List.flatMap_cons, List.length_append, length_escOf, ih, List.countP_cons, List.length_cons]
    simp only [decide_eq_true_eq]
    split <;> omega

/-- The delimiters are two bytes more. -/
theorem length_slipEncode (s : List Byte) :
    (slipEncode s).length = s.length + s.countP (fun b => b = 0xA5 ∨ b = 0xC0 ∨ b = 0xDB) + 2 := by
  rw [slipEncode_eq, List.length_append, List.length_append, length_flatMap_escOf]
  simp only [List.length_cons, List.length_nil]
  omega

/-- Settles O29: each marker costs one byte more, and there are at most as many markers as bytes. -/
theorem wireFrameLengthCountsTheMarkers : Obligations.WireFrameLengthCountsTheMarkers := by
  unfold Obligations.WireFrameLengthCountsTheMarkers
  refine ⟨length_slipEncode, fun s => ?_, length_slipEncode [0xC0, 0xC0, 0xC0, 0xC0]⟩
  rw [length_slipEncode, Nat.two_mul]
  gcongr
  exact List.countP_le_length

/-! ### SLIP.ENCODE on the block (R132 to R136) -/

theorem exec_encSof (s : State) : exec .encSof s = .next (s.report (.ofBytes [0xA5#8])) := rfl
theorem exec_encByte (b : Byte) (s : State) : exec (.encByte b) s = .next (s.report (.ofBytes (escOf b))) := rfl
theorem exec_encEof (s : State) : exec .encEof s = .next (s.report (.ofBytes [0xC0#8])) := rfl

@[simp] theorem HostRun.next_andThen {α β : Type} (s : State) (a : α) (f : State → α → HostRun β) :
    HostRun.andThen (.next (s, a)) f = f s a := rfl

/-- When the first operation completes, the host keeps its outputs and issues the rest. -/
theorem issueAll_cons_of_exec {i : Instr} {s t : State} (h : exec i s = .next t) (is : List Instr) :
    issueAll (i :: is) s = (issueAll is t).andThen fun u os => .next (u, t.outs :: os) := by
  simp [issueAll, issueOp, h]

@[simp] theorem wireOf_cons (o : Outputs) (os : List Outputs) : wireOf (o :: os) = o.out ++ wireOf os := rfl

/-- What the host keeps of ENC.BYTE of each byte and ENC.EOF; every report but the last is replaced. -/
theorem issueAll_encBytes_encEof (bytes : List Byte) (s : State) :
    issueAll (bytes.map .encByte ++ [.encEof]) s = .next
      (s.report (.ofBytes [0xC0#8]), bytes.map (fun b => .ofBytes (escOf b)) ++ [.ofBytes [0xC0#8]]) := by
  induction bytes generalizing s with
  | nil => exact issueAll_cons_of_exec (exec_encEof s) []
  | cons b rest ih => simp [issueAll_cons_of_exec (exec_encByte b s), ih]

theorem wireOf_encBytes_encEof (bytes : List Byte) :
    wireOf (bytes.map (fun b => .ofBytes (escOf b)) ++ [.ofBytes [0xC0#8]]) = bytes.flatMap escOf ++ [0xC0#8] := by
  simp [wireOf, List.flatMap_map]

/-- SLIP.ENCODE completes from every state with the wire frame; of the state it changes the outputs alone (R136, R137). -/
theorem hostSlipEncode_eq (bytes : List Byte) (s : State) :
    hostSlipEncode bytes s = .next (s.report (.ofBytes [0xC0#8]), slipEncode bytes) := by
  have hops : slipEncodeOps bytes = .encSof :: (bytes.map .encByte ++ [.encEof]) := rfl
  rw [hostSlipEncode, hops, issueAll_cons_of_exec (exec_encSof s), issueAll_encBytes_encEof]
  simp [wireOf_encBytes_encEof, slipEncode_eq]

/-- SLIP.ENCODE of `n` bytes is `n + 2` operations. -/
theorem length_slipEncodeOps (bytes : List Byte) : (slipEncodeOps bytes).length = bytes.length + 2 := by
  simp [slipEncodeOps]

/-- Settles O27: the run is that of `hostSlipEncode_eq`, by induction on the bytes; the examples are `slipEncode` evaluated. -/
theorem slipEncodeRunsToTheWireFrame : Obligations.SlipEncodeRunsToTheWireFrame := by
  unfold Obligations.SlipEncodeRunsToTheWireFrame
  exact ⟨hostSlipEncode_eq, fun bytes => ⟨rfl, length_slipEncodeOps bytes, slipEncode_eq bytes⟩, rfl, rfl, rfl, rfl⟩

end Sys2Proof.Machine
end

section
/-! PROOFS of the family 43_slip_decoder.md: the ESC prefix, the three good escape pairs, and DEC.RST. -/

namespace Sys2Proof

/-! ### The `op` code of DEC.RST (R62) -/

/-- A word whose bits under the mask of `cmd[11:8]` are those of the code `op` has that `op` field. -/
theorem opOf_of_and_opMask {w : Cmd} {op : BitVec 4} (h : w &&& 0xF00 = cmdWord op 0) : opOf w = op := by
  have hop := congrArg opOf ((and_opMask_eq_cmdWord w).symm.trans h)
  rwa [opOf_cmdWord, opOf_cmdWord] at hop

theorem decodeCmd_of_opOf_eq_nine {w : Cmd} (h : opOf w = 0x9#4) : decodeCmd w = .ok .decRst := by
  simp [decodeCmd, h]

end Sys2Proof

namespace Sys2Proof.Machine

/-! ### The ESC prefix and the good pairs (R156, R158 to R160) -/

theorem exec_symEsc (s : State) : exec .symEsc s = .next ((s.writeDec s.buf true).report .empty) := rfl
theorem exec_symEscStart (s : State) : exec .symEscStart s = pushData 0xA5#8 s := rfl
theorem exec_symEscEnd (s : State) : exec .symEscEnd s = pushData 0xC0#8 s := rfl
theorem exec_symEscEsc (s : State) : exec .symEscEsc s = pushData 0xDB#8 s := rfl

/-- A decoder operation with no output changes `buf`, `esc` and the outputs, and keeps `crc` and what is issued. -/
theorem writeDec_report_empty (s : State) (b : List Byte) (e : Bool) :
    (s.writeDec b e).report .empty = { s with buf := b, esc := e, outs := ⟨[], none, .none, none⟩ } := rfl

/-- A data byte is appended to the buffer, the flag is cleared and no event is reported (R157 to R160). -/
theorem pushData_eq (b : Byte) (s : State) :
    pushData b s = .next { s with buf := s.buf ++ [b], esc := false, outs := ⟨[], none, .none, none⟩ } := by
  rw [pushData_next, writeDec_report_empty]

/-- Settles O33: SYM.ESC writes the buffer back as it stood and the flag 1, and reports nothing. -/
theorem escSetsThePendingFlag : Obligations.EscSetsThePendingFlag := by
  unfold Obligations.EscSetsThePendingFlag
  intro s _
  rw [exec_symEsc, writeDec_report_empty]

/-- Settles O34: each good pair pushes its marker as a data byte, which the unbounded buffer always takes. -/
theorem escapePairsStandForTheMarkers : Obligations.EscapePairsStandForTheMarkers := by
  unfold Obligations.EscapePairsStandForTheMarkers
  intro s _
  exact ⟨(exec_symEscStart s).trans (pushData_eq _ s), (exec_symEscEnd s).trans (pushData_eq _ s),
    (exec_symEscEsc s).trans (pushData_eq _ s)⟩

/-! ### DEC.RST (R162) -/

theorem exec_decRst (s : State) : exec .decRst s = .next (s.clearDec.report .empty) := rfl

/-- A second clearing changes nothing that the first one left. -/
@[simp] theorem clearDec_report_clearDec (s : State) (o : Outputs) :
    (s.clearDec.report o).clearDec = s.clearDec.report o := rfl

/-- A cleared decoder is the decoder after reset (R34). -/
@[simp] theorem clearDec_report_dec (s : State) (o : Outputs) : (s.clearDec.report o).dec = State.reset.dec := rfl

/-- Settles O37: the `op` field alone selects DEC.RST, which clears the decoder and the outputs; clearing is idempotent. -/
theorem decRstReturnsTheDecoderToItsInitialState : Obligations.DecRstReturnsTheDecoderToItsInitialState := by
  unfold Obligations.DecRstReturnsTheDecoderToItsInitialState
  constructor
  · intro w hw
    exact decodeCmd_of_opOf_eq_nine (opOf_of_and_opMask hw)
  · intro s
    refine ⟨?_, fun t ht => ?_⟩
    · rw [exec_decRst, State.clearDec, writeDec_report_empty]
    · cases (exec_decRst s).symm.trans ht
      rw [exec_decRst, clearDec_report_clearDec, State.report_report, clearDec_report_dec]
      exact ⟨rfl, rfl⟩

end Sys2Proof.Machine
end

section
/-! PROOFS of the family 45_packet_context.md: the capability of a packet variant, and what deserializing it yields. -/

namespace Sys2Proof.Machine

/-! ### Capability (R205, R215) -/

/-- No capability forbids both directions. -/
theorem canSend_or_canReceive (c : Capability) : canSend c = true ∨ canReceive c = true := by
  cases c with
  | sendOnly | both => exact .inl rfl
  | receiveOnly => exact .inr rfl

/-- The catalog's send-only types: radio configuration and control (R205). -/
theorem PacketType.capability_eq_sendOnly_iff (t : PacketType) :
    t.capability = some .sendOnly ↔ t ∈ [PacketType.radioPhyConfig, .radioFreqConfig, .radioLoraConfig, .enterSleepStop2,
      .radioGoSleep, .radioGoIdle, .radioSend, .radioRecvStart] := by
  cases t <;> decide

/-- A stated capability leaves nothing to the free value. -/
theorem PacketType.capabilityOrFree_of_capability {t : PacketType} {c : Capability} (h : t.capability = some c) :
    t.capabilityOrFree = c := by
  rw [PacketType.capabilityOrFree, h, Option.getD_some]

theorem PacketType.receivable_of_capability {t : PacketType} {c : Capability} (h : t.capability = some c) :
    t.receivable = canReceive c := by
  rw [PacketType.receivable, PacketType.capabilityOrFree_of_capability h]

/-- Only Ping is sent whatever its capability (R185). -/
theorem PacketType.sendable_of_capability {t : PacketType} {c : Capability} (h : t.capability = some c) (hp : t ≠ .ping) :
    t.sendable = (t.implemented && canSend c) := by
  rw [PacketType.sendable, PacketType.capabilityOrFree_of_capability h, beq_eq_false_iff_ne.mpr hp, Bool.false_or]

/-- The one type that is not implemented, RadioGfskConfig, has no stated capability (R205). -/
theorem PacketType.implemented_of_capability {t : PacketType} {c : Capability} (h : t.capability = some c) :
    t.implemented = true := by
  have ht : t ≠ .radioGfskConfig := by rintro rfl; cases h
  exact bne_iff_ne.mpr ht

/-! ### Deserializing a variant (R204, R215) -/

theorem deserializeAs_of_not_receivable {t : PacketType} (h : t.receivable = false) (payload : List Byte) :
    deserializeAs t payload = .error (.notDeserializable t) := by
  simp [deserializeAs, h]

/-- The type code of an implemented type dispatches to that type's own routine. -/
theorem dispatchPacket_code {t : PacketType} (h : t.implemented = true) (payload : List Byte) :
    dispatchPacket t.code payload = deserializeAs t payload := by
  simp [dispatchPacket, t.code_listed.2, h]

/-- A body whose header is read is what its type code and payload dispatch to. -/
theorem deserializeBody_of_header {k : Config} {body payload : List Byte} {code : Byte}
    (h : deserializeHeader k body = .ok (code, payload)) : deserializeBody k body = dispatchPacket code payload := by
  simp [deserializeBody, h]

theorem deserializeAs_of_sendOnly {t : PacketType} (h : t.capability = some .sendOnly) (payload : List Byte) :
    deserializeAs t payload = .error (.notDeserializable t) :=
  deserializeAs_of_not_receivable (PacketType.receivable_of_capability h) payload

theorem dispatchPacket_of_sendOnly {t : PacketType} (h : t.capability = some .sendOnly) (payload : List Byte) :
    dispatchPacket t.code payload = .error (.notDeserializable t) :=
  (dispatchPacket_code (PacketType.implemented_of_capability h) payload).trans (deserializeAs_of_sendOnly h payload)

/-- Settles O58: the catalog states each of the eight types send-only, so none is receivable, and a body whose header is read as that
type comes to the same routine. -/
theorem sendOnlyPacketIsNeverDeserialized : Obligations.SendOnlyPacketIsNeverDeserialized := by
  unfold Obligations.SendOnlyPacketIsNeverDeserialized
  refine ⟨fun t => canSend_or_canReceive t.capabilityOrFree, fun t ht => ?_, rfl,
    PacketType.sendable_of_capability (t := .radioReceivedPacket) rfl nofun⟩
  have hcap : t.capability = some .sendOnly := t.capability_eq_sendOnly_iff.mpr ht
  exact ⟨hcap, fun payload => ⟨deserializeAs_of_sendOnly hcap payload, dispatchPacket_of_sendOnly hcap payload,
    fun _ hbody => (deserializeBody_of_header hbody).trans (dispatchPacket_of_sendOnly hcap payload)⟩⟩

end Sys2Proof.Machine
end

section
/-! PROOFS of the family 'other', the layer of the operations: an equation for each operation, and once what an operation can do;
from it the write table, the condition on outputs and the completion of every run. -/

namespace Sys2Proof.Machine

/-! ### One equation for each operation -/

theorem exec_crcClr (s : State) : exec .crcClr s = .next ((s.writeCrc 0#16).report .empty) := rfl
theorem exec_crcUpd (b : Byte) (s : State) :
    exec (.crcUpd b) s = .next ((s.writeCrc (crcStepByte Config.ksf s.crc b)).report .empty) := rfl

/-- The register is delivered as it stands: reflected output, no final XOR (R107). -/
@[simp] theorem crcOut_ksf (c : Word) : crcOut Config.ksf c = c := by simp [crcOut]

theorem exec_crcRd (s : State) : exec .crcRd s = .next (s.report (.ofValue s.crc)) := by
  simp [exec, execCrcRd]

theorem exec_symStart (s : State) : exec .symStart s = .next (s.clearDec.report .empty) := rfl
theorem exec_symEnd (s : State) : exec .symEnd s = .next (s.clearDec.report (.ofEvent (.frame s.buf))) := rfl
theorem exec_symData (b : Byte) (s : State) : exec (.symData b) s = pushData b s := rfl
theorem exec_symEscBad (c : Byte) (s : State) :
    exec (.symEscBad c) s = .next (s.clearDec.report (.ofEvent .framingError)) := rfl

/-! ### What an operation can do -/

/-- Everything a wire symbol can do: write the decoder's registers with no event, or report an event and clear them. -/
theorem exec_symbol_cases (y : Symbol) (s : State) :
    (∃ buf esc, exec y.toInstr s = .next ((s.writeDec buf esc).report .empty)) ∨
    (∃ e, (y = .stop ∨ ∃ c, y = .escBad c) ∧ exec y.toInstr s = .next (s.clearDec.report (.ofEvent e))) := by
  cases y with
  | start | esc | data | escStart | escEnd | escEsc => exact .inl ⟨_, _, rfl⟩
  | stop => exact .inr ⟨_, .inl rfl, rfl⟩
  | escBad c => exact .inr ⟨_, .inr ⟨c, rfl⟩, rfl⟩

/-- Everything an operation can do, unit by unit (R36): the generator writes `crc` or shows it, the encoder outputs one or two
bytes, the decoder writes its registers or reports an event and clears them. -/
theorem exec_cases (i : Instr) (s : State) :
    ((i = .crcClr ∨ ∃ d, i = .crcUpd d) ∧ ∃ v, exec i s = .next ((s.writeCrc v).report .empty)) ∨
    (i = .crcRd ∧ exec i s = .next (s.report (.ofValue s.crc))) ∨
    ((i = .encSof ∨ i = .encEof ∨ ∃ d, i = .encByte d) ∧
      ∃ l, l ≠ [] ∧ l.length ≤ 2 ∧ exec i s = .next (s.report (.ofBytes l))) ∨
    ((i.isCommand = false ∨ i = .decRst ∨ ∃ d, i = .decByte d) ∧
      ∃ buf esc, exec i s = .next ((s.writeDec buf esc).report .empty)) ∨
    ((i = .symEnd ∨ (∃ c, i = .symEscBad c) ∨ ∃ d, i = .decByte d) ∧
      ∃ e, exec i s = .next (s.clearDec.report (.ofEvent e))) := by
  cases i with
  | crcClr => exact .inl ⟨.inl rfl, _, rfl⟩
  | crcUpd d => exact .inl ⟨.inr ⟨d, rfl⟩, _, rfl⟩
  | crcRd => exact .inr (.inl ⟨rfl, exec_crcRd s⟩)
  | encSof => exact .inr (.inr (.inl ⟨.inl rfl, _, by simp, by simp, exec_encSof s⟩))
  | encEof => exact .inr (.inr (.inl ⟨.inr (.inl rfl), _, by simp, by simp, exec_encEof s⟩))
  | encByte d =>
    refine .inr (.inr (.inl ⟨.inr (.inr ⟨d, rfl⟩), escOf d, ?_, ?_, exec_encByte d s⟩))
    · rcases escOf_cases d with ⟨-, h⟩ | ⟨-, h⟩ | ⟨-, h⟩ | ⟨-, -, -, h⟩ <;> simp [h]
    · rw [length_escOf]; split <;> omega
  | decRst => exact .inr (.inr (.inr (.inl ⟨.inr (.inl rfl), _, _, exec_decRst s⟩)))
  | decByte d =>
    rw [exec_decByte_eq_exec_symbol]
    rcases exec_symbol_cases (classify s.esc d) s with h | ⟨e, -, h⟩
    · exact .inr (.inr (.inr (.inl ⟨.inr (.inr ⟨d, rfl⟩), h⟩)))
    · exact .inr (.inr (.inr (.inr ⟨.inr (.inr ⟨d, rfl⟩), e, h⟩)))
  | symEnd => exact .inr (.inr (.inr (.inr ⟨.inl rfl, _, rfl⟩)))
  | symEscBad c => exact .inr (.inr (.inr (.inr ⟨.inr (.inl ⟨c, rfl⟩), _, rfl⟩)))
  | symStart | symEsc | symData | symEscStart | symEscEnd | symEscEsc =>
    exact .inr (.inr (.inr (.inl ⟨.inl rfl, _, _, rfl⟩)))

/-- Every operation completes and leaves what is issued alone. -/
theorem exec_completes (i : Instr) (s : State) : ∃ t, exec i s = .next t ∧ t.input = s.input := by
  rcases exec_cases i s with ⟨-, v, h⟩ | ⟨-, h⟩ | ⟨-, l, -, -, h⟩ | ⟨-, buf, esc, h⟩ | ⟨-, e, h⟩ <;> exact ⟨_, h, rfl⟩

/-- Settles O41: each of the five things an operation can do touches its own unit's registers and outputs. -/
theorem operationsTouchOnlyTheirRegisters : Obligations.OperationsTouchOnlyTheirRegisters := by
  unfold Obligations.OperationsTouchOnlyTheirRegisters
  intro i s t ht
  rcases exec_cases i s with ⟨hi, v, h⟩ | ⟨rfl, h⟩ | ⟨hi, l, hl, -, h⟩ | ⟨hi, buf, esc, h⟩ | ⟨hi, e, h⟩ <;> cases h.symm.trans ht
  · rcases hi with rfl | ⟨d, rfl⟩ <;> simp
  · simp
  · rcases hi with rfl | rfl | ⟨d, rfl⟩ <;> simp [hl]
  · rcases hi with hsym | rfl | ⟨d, rfl⟩
    · cases i with
      | crcClr | crcUpd | crcRd | encSof | encByte | encEof | decByte | decRst => cases hsym
      | symStart | symEnd | symEsc | symData | symEscStart | symEscEnd | symEscEsc | symEscBad => simp [Instr.isCommand]
    · simp
    · simp
  · rcases hi with rfl | ⟨c, rfl⟩ | ⟨d, rfl⟩ <;> simp [Instr.isCommand]

/-! ### The outputs after a step -/

/-- No outputs agree with any registers. -/
theorem outputsAgree_report_empty (s : State) : OutputsAgree (s.report .empty) := by
  constructor <;> simp

/-- Every operation leaves outputs that agree with the registers. -/
theorem exec_outputsAgree {i : Instr} {s t : State} (ht : exec i s = .next t) : OutputsAgree t := by
  rcases exec_cases i s with ⟨-, v, h⟩ | ⟨-, h⟩ | ⟨-, l, -, hl, h⟩ | ⟨-, buf, esc, h⟩ | ⟨-, e, h⟩ <;> cases h.symm.trans ht
  · exact outputsAgree_report_empty _
  · constructor <;> simp
  · constructor <;> simp [hl]
  · exact outputsAgree_report_empty _
  · constructor <;> simp

theorem takeIllegalOp_outputsAgree (w : Cmd) (s : State) : OutputsAgree (takeIllegalOp w s) := by
  constructor <;> simp [takeIllegalOp]

/-- Settles O54: a step idles, runs an operation or reports an illegal word, and each leaves outputs that agree. -/
theorem everyStepsOutputsAgreeWithTheRegisters : Obligations.EveryStepsOutputsAgreeWithTheRegisters := by
  unfold Obligations.EveryStepsOutputsAgreeWithTheRegisters
  intro s t ht
  rcases step_cases s with ⟨-, h⟩ | ⟨x, rest, i, -, -, h⟩ | ⟨x, rest, w, -, -, h⟩
  · cases h.symm.trans ht; exact outputsAgree_report_empty s
  · exact exec_outputsAgree (h.symm.trans ht)
  · cases h.symm.trans ht; exact takeIllegalOp_outputsAgree w _

/-- Settles O55: at reset there are no outputs. -/
theorem resetOutputsAgreeWithTheRegisters : Obligations.ResetOutputsAgreeWithTheRegisters :=
  outputsAgree_report_empty State.reset

/-! ### Steps and runs complete -/

/-- A step answers a next state and consumes exactly the next input. -/
theorem step_completes (s : State) : ∃ t, step s = .next t ∧ t.input = s.input.tail := by
  rcases step_cases s with ⟨hin, h⟩ | ⟨x, rest, i, hin, -, h⟩ | ⟨x, rest, w, hin, -, h⟩
  · exact ⟨_, h, by simp [hin]⟩
  · obtain ⟨t, ht, hinput⟩ := exec_completes i { s with input := rest }
    exact ⟨t, h.trans ht, by simp [hin, hinput]⟩
  · exact ⟨_, h, by simp [hin, takeIllegalOp]⟩

/-- No run stops, by induction on its length. -/
theorem safeRun (n : Nat) (s : State) : SafeRun n s := by
  induction n generalizing s with
  | zero => exact ⟨s, run_zero s⟩
  | succ n ih =>
    obtain ⟨t, ht, -⟩ := step_completes s
    obtain ⟨u, hu⟩ := ih t
    exact ⟨u, (run_succ n ht).trans hu⟩

/-- Settles O5: every operation completes, and the idle step and the illegal word are next states too. -/
theorem everyStepCompletes : Obligations.EveryStepCompletes := ⟨step_completes, safeRun⟩

end Sys2Proof.Machine
end

section
/-! PROOFS of the family 'other': the decoder and the generator do not influence each other. -/

namespace Sys2Proof.Machine

/-! ### Two runs side by side -/

/-- A relation that every step keeps is kept by runs of any length. -/
theorem run_related {R : State → State → Prop}
    (hstep : ∀ s₁ s₂, R s₁ s₂ → ∃ t₁ t₂, step s₁ = .next t₁ ∧ step s₂ = .next t₂ ∧ R t₁ t₂)
    (n : Nat) (s₁ s₂ : State) (h : R s₁ s₂) :
    ∃ t₁ t₂, Sys2Proof.core.run n s₁ = .next t₁ ∧ Sys2Proof.core.run n s₂ = .next t₂ ∧ R t₁ t₂ := by
  induction n generalizing s₁ s₂ with
  | zero => exact ⟨s₁, s₂, run_zero s₁, run_zero s₂, h⟩
  | succ n ih =>
    obtain ⟨u₁, u₂, hs₁, hs₂, hu⟩ := hstep s₁ s₂ h
    obtain ⟨t₁, t₂, hr₁, hr₂, ht⟩ := ih u₁ u₂ hu
    exact ⟨t₁, t₂, (run_succ n hs₁).trans hr₁, (run_succ n hs₂).trans hr₂, ht⟩

/-- When every step keeps a relation and establishes a second one, runs keep the first, and the second holds after a step. -/
theorem run_related_and_shown {R Q : State → State → Prop}
    (hstep : ∀ s₁ s₂, R s₁ s₂ → ∃ t₁ t₂, step s₁ = .next t₁ ∧ step s₂ = .next t₂ ∧ R t₁ t₂ ∧ Q t₁ t₂)
    (n : Nat) (s₁ s₂ : State) (h : R s₁ s₂) :
    ∃ t₁ t₂, Sys2Proof.core.run n s₁ = .next t₁ ∧ Sys2Proof.core.run n s₂ = .next t₂ ∧ R t₁ t₂ ∧ (0 < n → Q t₁ t₂) := by
  cases n with
  | zero => exact ⟨s₁, s₂, run_zero s₁, run_zero s₂, h, fun h0 => absurd h0 (Nat.lt_irrefl 0)⟩
  | succ n =>
    obtain ⟨u₁, u₂, hs₁, hs₂, hu⟩ := hstep s₁ s₂ h
    obtain ⟨t₁, t₂, hr₁, hr₂, hR, hQ⟩ := run_related (R := fun a b => R a b ∧ Q a b) (fun a b hab => hstep a b hab.1) n u₁ u₂ hu
    exact ⟨t₁, t₂, (run_succ n hs₁).trans hr₁, (run_succ n hs₂).trans hr₂, hR, fun _ => hQ⟩

/-! ### The decoder's and the encoder's side -/

/-- The states agree on everything but `crc` and the outputs. -/
structure SameDecoder (s₁ s₂ : State) : Prop where
  buf : s₁.buf = s₂.buf
  esc : s₁.esc = s₂.esc
  input : s₁.input = s₂.input

/-- The states show the same event and the same bytes. -/
structure SameEventAndBytes (s₁ s₂ : State) : Prop where
  ev : s₁.outs.ev = s₂.outs.ev
  out : s₁.outs.out = s₂.outs.out

/-- A symbol's rule reads `buf` alone. -/
theorem exec_symbol_sameDecoder (y : Symbol) {s₁ s₂ : State} (h : SameDecoder s₁ s₂) :
    ∃ t₁ t₂, exec y.toInstr s₁ = .next t₁ ∧ exec y.toInstr s₂ = .next t₂ ∧ SameDecoder t₁ t₂ ∧ SameEventAndBytes t₁ t₂ := by
  obtain ⟨hbuf, -, hinput⟩ := h
  cases y with
  | start | escBad => exact ⟨_, _, rfl, rfl, ⟨rfl, rfl, hinput⟩, ⟨rfl, rfl⟩⟩
  | stop => exact ⟨_, _, rfl, rfl, ⟨rfl, rfl, hinput⟩, ⟨congrArg Event.frame hbuf, rfl⟩⟩
  | esc => exact ⟨_, _, rfl, rfl, ⟨hbuf, rfl, hinput⟩, ⟨rfl, rfl⟩⟩
  | data | escStart | escEnd | escEsc => exact ⟨_, _, rfl, rfl, ⟨congrArg (· ++ _) hbuf, rfl, hinput⟩, ⟨rfl, rfl⟩⟩

theorem exec_sameDecoder (i : Instr) {s₁ s₂ : State} (h : SameDecoder s₁ s₂) :
    ∃ t₁ t₂, exec i s₁ = .next t₁ ∧ exec i s₂ = .next t₂ ∧ SameDecoder t₁ t₂ ∧ SameEventAndBytes t₁ t₂ := by
  cases i with
  | crcClr | crcUpd | crcRd | encSof | encByte | encEof => exact ⟨_, _, rfl, rfl, ⟨h.buf, h.esc, h.input⟩, ⟨rfl, rfl⟩⟩
  | decRst => exact ⟨_, _, rfl, rfl, ⟨rfl, rfl, h.input⟩, ⟨rfl, rfl⟩⟩
  | decByte d =>
    rw [exec_decByte_eq_exec_symbol, exec_decByte_eq_exec_symbol, h.esc]
    exact exec_symbol_sameDecoder (classify s₂.esc d) h
  | symStart => exact exec_symbol_sameDecoder .start h
  | symEnd => exact exec_symbol_sameDecoder .stop h
  | symEsc => exact exec_symbol_sameDecoder .esc h
  | symData b => exact exec_symbol_sameDecoder (.data b) h
  | symEscStart => exact exec_symbol_sameDecoder .escStart h
  | symEscEnd => exact exec_symbol_sameDecoder .escEnd h
  | symEscEsc => exact exec_symbol_sameDecoder .escEsc h
  | symEscBad c => exact exec_symbol_sameDecoder (.escBad c) h

/-- The step with an input that decodes. -/
theorem step_of_decodeInput_ok {s : State} {x : Input} {rest : List Input} {i : Instr} (hin : s.input = x :: rest)
    (hd : decodeInput s.esc x = .ok i) : step s = exec i { s with input := rest } := by
  simp [step, fetch_cons s x rest hin, hd]

/-- The step with a command word that is rejected. -/
theorem step_of_decodeInput_error {s : State} {x : Input} {rest : List Input} {w : Cmd} (hin : s.input = x :: rest)
    (hd : decodeInput s.esc x = .error (.reservedOp w)) : step s = .next (takeIllegalOp w { s with input := rest }) := by
  simp [step, fetch_cons s x rest hin, hd, takeRejection]

theorem step_sameDecoder (s₁ s₂ : State) (h : SameDecoder s₁ s₂) :
    ∃ t₁ t₂, step s₁ = .next t₁ ∧ step s₂ = .next t₂ ∧ SameDecoder t₁ t₂ ∧ SameEventAndBytes t₁ t₂ := by
  rcases step_cases s₁ with ⟨hin, hs₁⟩ | ⟨x, rest, i, hin, hd, hs₁⟩ | ⟨x, rest, w, hin, hd, hs₁⟩
  · exact ⟨_, _, hs₁, step_of_input_nil (h.input.symm.trans hin), ⟨h.buf, h.esc, h.input⟩, ⟨rfl, rfl⟩⟩
  · rw [hs₁, step_of_decodeInput_ok (h.input.symm.trans hin) (h.esc ▸ hd)]
    exact exec_sameDecoder i ⟨h.buf, h.esc, rfl⟩
  · exact ⟨_, _, hs₁, step_of_decodeInput_error (h.input.symm.trans hin) (h.esc ▸ hd), ⟨h.buf, h.esc, rfl⟩, ⟨rfl, rfl⟩⟩

/-! ### The generator's side -/

/-- The states agree on `crc` and on what is issued. -/
structure SameGenerator (s₁ s₂ : State) : Prop where
  crc : s₁.crc = s₂.crc
  input : s₁.input = s₂.input

/-- A wire symbol keeps `crc` and shows no value. -/
theorem exec_symbol_crc (y : Symbol) (s : State) :
    ∃ t, exec y.toInstr s = .next t ∧ t.crc = s.crc ∧ t.input = s.input ∧ t.outs.q = none := by
  rcases exec_symbol_cases y s with ⟨buf, esc, h⟩ | ⟨e, -, h⟩ <;> exact ⟨_, h, rfl, rfl, rfl⟩

/-- Whatever symbols two states make of a byte, their generators stay the same. -/
theorem exec_symbols_sameGenerator (y₁ y₂ : Symbol) {s₁ s₂ : State} (h : SameGenerator s₁ s₂) :
    ∃ t₁ t₂, exec y₁.toInstr s₁ = .next t₁ ∧ exec y₂.toInstr s₂ = .next t₂ ∧ SameGenerator t₁ t₂ ∧ t₁.outs.q = t₂.outs.q := by
  obtain ⟨t₁, ht₁, hcrc₁, hin₁, hq₁⟩ := exec_symbol_crc y₁ s₁
  obtain ⟨t₂, ht₂, hcrc₂, hin₂, hq₂⟩ := exec_symbol_crc y₂ s₂
  exact ⟨t₁, t₂, ht₁, ht₂, ⟨by rw [hcrc₁, hcrc₂, h.crc], by rw [hin₁, hin₂, h.input]⟩, hq₁.trans hq₂.symm⟩

theorem exec_sameGenerator (i : Instr) {s₁ s₂ : State} (h : SameGenerator s₁ s₂) :
    ∃ t₁ t₂, exec i s₁ = .next t₁ ∧ exec i s₂ = .next t₂ ∧ SameGenerator t₁ t₂ ∧ t₁.outs.q = t₂.outs.q := by
  cases i with
  | crcClr => exact ⟨_, _, rfl, rfl, ⟨rfl, h.input⟩, rfl⟩
  | crcUpd d => exact ⟨_, _, rfl, rfl, ⟨congrArg (crcStepByte Config.ksf · d) h.crc, h.input⟩, rfl⟩
  | crcRd => exact ⟨_, _, exec_crcRd s₁, exec_crcRd s₂, ⟨h.crc, h.input⟩, congrArg some h.crc⟩
  | decByte d =>
    rw [exec_decByte_eq_exec_symbol, exec_decByte_eq_exec_symbol]
    exact exec_symbols_sameGenerator (classify s₁.esc d) (classify s₂.esc d) h
  | encSof | encByte | encEof | decRst => exact ⟨_, _, rfl, rfl, ⟨h.crc, h.input⟩, rfl⟩
  | symStart | symEnd | symEsc | symData | symEscStart | symEscEnd | symEscEsc | symEscBad =>
    exact ⟨_, _, rfl, rfl, ⟨h.crc, h.input⟩, rfl⟩

/-- A command decodes in both states to the same operation; a wire byte may be two different symbols, which both leave the
generator alone. -/
theorem step_sameGenerator (s₁ s₂ : State) (h : SameGenerator s₁ s₂) :
    ∃ t₁ t₂, step s₁ = .next t₁ ∧ step s₂ = .next t₂ ∧ SameGenerator t₁ t₂ ∧ t₁.outs.q = t₂.outs.q := by
  rcases step_cases s₁ with ⟨hin, hs₁⟩ | ⟨x, rest, i, hin, hd, hs₁⟩ | ⟨x, rest, w, hin, hd, hs₁⟩
  · exact ⟨_, _, hs₁, step_of_input_nil (h.input.symm.trans hin), ⟨h.crc, h.input⟩, rfl⟩
  · rw [hs₁]
    cases x with
    | cmd w =>
      rw [step_of_decodeInput_ok (s := s₂) (h.input.symm.trans hin) hd]
      exact exec_sameGenerator i ⟨h.crc, rfl⟩
    | wire b =>
      rw [step_of_decodeInput_ok (s := s₂) (h.input.symm.trans hin) (decodeInput_wire s₂.esc b)]
      cases hd
      exact exec_symbols_sameGenerator _ _ ⟨h.crc, rfl⟩
  · cases x with
    | cmd v => exact ⟨_, _, hs₁, step_of_decodeInput_error (s := s₂) (h.input.symm.trans hin) hd, ⟨h.crc, rfl⟩, rfl⟩
    | wire b => cases hd

/-- Settles O56: every step keeps both agreements and shows what they determine, hence so does every run. -/
theorem decoderAndGeneratorDoNotInfluenceEachOther : Obligations.DecoderAndGeneratorDoNotInfluenceEachOther := by
  unfold Obligations.DecoderAndGeneratorDoNotInfluenceEachOther
  constructor
  · intro n s₁ s₂ hbuf hesc hinput
    obtain ⟨t₁, t₂, h₁, h₂, ht, hshown⟩ := run_related_and_shown step_sameDecoder n s₁ s₂ ⟨hbuf, hesc, hinput⟩
    exact ⟨t₁, t₂, h₁, h₂, ht.buf, ht.esc, ht.input, fun hn => ⟨(hshown hn).ev, (hshown hn).out⟩⟩
  · intro n s₁ s₂ hcrc hinput
    obtain ⟨t₁, t₂, h₁, h₂, ht, hq⟩ :=
      run_related_and_shown (Q := fun a b => a.outs.q = b.outs.q) step_sameGenerator n s₁ s₂ ⟨hcrc, hinput⟩
    exact ⟨t₁, t₂, h₁, h₂, ht.crc, ht.input, hq⟩

end Sys2Proof.Machine
end

section
/-! PROOFS of the family 'other': encoding and decoding of the operations, and the steps that run them. -/

namespace Sys2Proof

/-! ### Command words (R61 to R64) -/

/-- The operand is the low 8 bits of the word. -/
theorem dinOf_eq_setWidth (w : Cmd) : dinOf w = w.setWidth 8 := by
  apply BitVec.eq_of_getLsbD_eq
  intro i hi
  simp [dinOf, hi]

/-- DEC.BYTE of a byte, as the spec writes the word. -/
theorem cmdWord_eight_eq_or (b : Byte) : cmdWord 0x8#4 b = 0x800 ||| b.setWidth 12 := by
  apply BitVec.eq_of_getLsbD_eq
  intro i hi
  simp only [cmdWord, BitVec.getLsbD_append, BitVec.getLsbD_or, BitVec.getLsbD_setWidth]
  interval_cases i <;> simp

/-- The eight op codes that select no operation (R64). -/
def reservedOps : List (BitVec 4) := [0x3, 0x7, 0xA, 0xB, 0xC, 0xD, 0xE, 0xF]

theorem opOf_mem_reservedOps {w : Cmd}
    (h : w &&& 0xF00 ∈ [0x300#12, 0x700#12, 0xA00#12, 0xB00#12, 0xC00#12, 0xD00#12, 0xE00#12, 0xF00#12]) :
    opOf w ∈ reservedOps := by
  rw [and_opMask_eq_cmdWord] at h
  generalize opOf w = op at h ⊢
  decide +revert

theorem decodeCmd_of_reserved {w : Cmd} (h : opOf w ∈ reservedOps) : decodeCmd w = .error (.reservedOp w) := by
  simp only [reservedOps, List.mem_cons, List.not_mem_nil, or_false] at h
  rcases h with hop | hop | hop | hop | hop | hop | hop | hop <;> simp [decodeCmd, hop]

/-- Settles O6: the bits under the mask are the `op` field, and that is what `decodeCmd` looks at. -/
theorem commandWordSelectsTheTableRow : Obligations.CommandWordSelectsTheTableRow := by
  unfold Obligations.CommandWordSelectsTheTableRow
  intro w
  rw [← dinOf_eq_setWidth]
  refine ⟨fun h => ?_, fun h => ?_, fun h => ?_, fun h => ?_, fun h => ?_, fun h => ?_, fun h => ?_, fun h => ?_, fun h => ?_⟩
  · simp [decodeCmd, opOf_of_and_opMask (op := 0x0#4) h]
  · simp [decodeCmd, opOf_of_and_opMask (op := 0x1#4) h]
  · simp [decodeCmd, opOf_of_and_opMask (op := 0x2#4) h]
  · simp [decodeCmd, opOf_of_and_opMask (op := 0x4#4) h]
  · simp [decodeCmd, opOf_of_and_opMask (op := 0x5#4) h]
  · simp [decodeCmd, opOf_of_and_opMask (op := 0x6#4) h]
  · simp [decodeCmd, opOf_of_and_opMask (op := 0x8#4) h]
  · exact decodeCmd_of_opOf_eq_nine (opOf_of_and_opMask h)
  · exact decodeCmd_of_reserved (opOf_mem_reservedOps h)

/-! ### Encode, then decode -/

/-- A command is spelled by one command word, which decodes to it. -/
theorem encode_command {i : Instr} (h : i.isCommand = true) : ∃ w, encode i = [.cmd w] ∧ decodeCmd w = .ok i := by
  cases i with
  | crcClr | crcUpd | crcRd | encSof | encByte | encEof | decByte | decRst => exact ⟨_, rfl, by simp [decodeCmd]⟩
  | symStart | symEnd | symEsc | symData | symEscStart | symEscEnd | symEscEsc | symEscBad => cases h

theorem decodeWhole_encode_command {i : Instr} (h : i.isCommand = true) : decodeWhole (encode i) = some i := by
  obtain ⟨w, hw, hd⟩ := encode_command h
  rw [hw, decodeWhole, decodeInput, hd, Except.toOption]

theorem decodeWhole_wire (b : Byte) : decodeWhole [.wire b] = some (classify false b).toInstr := rfl
theorem decodeWhole_escPair (c : Byte) : decodeWhole [.wire 0xDB#8, .wire c] = some (classify true c).toInstr := rfl

theorem wellFormed_symData_iff (b : Byte) : (Instr.symData b).wellFormed = true ↔ b ∉ [0xA5#8, 0xC0#8, 0xDB#8] := by
  simp [Instr.wellFormed, isMarker, and_assoc]

theorem wellFormed_symEscBad_iff (c : Byte) : (Instr.symEscBad c).wellFormed = true ↔ c ∉ [0xDE#8, 0xDC#8, 0xDD#8] := by
  simp [Instr.wellFormed, isMappedCode, and_assoc]

/-- Settles O9: a command by its word; a symbol by its byte or its pair, where well-formedness is what the default rows ask. -/
theorem encodeThenDecodeReturnsTheOperation : Obligations.EncodeThenDecodeReturnsTheOperation := by
  unfold Obligations.EncodeThenDecodeReturnsTheOperation
  intro i hi
  cases i with
  | crcClr | crcUpd | crcRd | encSof | encByte | encEof | decByte | decRst => exact decodeWhole_encode_command rfl
  | symStart | symEnd | symEsc | symEscStart | symEscEnd | symEscEsc => rfl
  | symData b => rw [encode, decodeWhole_wire, (classify_false_eq_data_iff b).mpr ((wellFormed_symData_iff b).mp hi)]; rfl
  | symEscBad c =>
    rw [encode, Machine.ksf_esc, decodeWhole_escPair, (classify_true_eq_escBad_iff c).mpr ((wellFormed_symEscBad_iff c).mp hi)]
    rfl

/-! ### Decode, then encode -/

/-- The symbol of a byte is a well-formed operation: the default rows take what the others leave. -/
theorem classify_wellFormed (esc : Bool) (b : Byte) : (classify esc b).toInstr.wellFormed = true := by
  cases esc with
  | false =>
    rcases Machine.classify_plain_cases b with ⟨-, h⟩ | ⟨-, h⟩ | ⟨-, h⟩ | ⟨h1, h2, h3, h⟩ <;> rw [h]
    iterate 3 rfl
    exact (wellFormed_symData_iff b).mpr (by simp [h1, h2, h3])
  | true =>
    rcases Machine.classify_escaped_cases b with ⟨-, h⟩ | ⟨-, h⟩ | ⟨-, h⟩ | ⟨h1, h2, h3, h⟩ <;> rw [h]
    iterate 3 rfl
    exact (wellFormed_symEscBad_iff b).mpr (by simp [h1, h2, h3])

theorem decodeInput_wellFormed {esc : Bool} {x : Input} {i : Instr} (h : decodeInput esc x = .ok i) : i.wellFormed = true := by
  cases x with
  | wire b => cases h; exact classify_wellFormed esc b
  | cmd w =>
    rcases decodeCmd_ok_cases h with ⟨-, rfl⟩ | ⟨-, rfl⟩ | ⟨-, rfl⟩ | ⟨-, rfl⟩ | ⟨-, rfl⟩ | ⟨-, rfl⟩ | ⟨-, rfl⟩ | ⟨-, rfl⟩ <;> rfl

/-- A word that decodes is the spelling of its operation, but that the spelling of one with no operand has zero operand bits. -/
theorem encode_of_decodeCmd {w : Cmd} {i : Instr} (h : decodeCmd w = .ok i) :
    encode i = [.cmd w] ∨ (opOf w ∉ [0x1#4, 0x5#4, 0x8#4] ∧ encode i = [.cmd (cmdWord (opOf w) 0)]) := by
  have same {op : BitVec 4} (hop : opOf w = op) : [Input.cmd (cmdWord op (dinOf w))] = [.cmd w] := by
    rw [← hop, cmdWord_opOf_dinOf]
  rcases decodeCmd_ok_cases h with ⟨hop, rfl⟩ | ⟨hop, rfl⟩ | ⟨hop, rfl⟩ | ⟨hop, rfl⟩ | ⟨hop, rfl⟩ | ⟨hop, rfl⟩ | ⟨hop, rfl⟩ |
    ⟨hop, rfl⟩
  · exact .inr (by rw [hop]; exact ⟨by decide, rfl⟩)
  · exact .inl (same hop)
  · exact .inr (by rw [hop]; exact ⟨by decide, rfl⟩)
  · exact .inr (by rw [hop]; exact ⟨by decide, rfl⟩)
  · exact .inl (same hop)
  · exact .inr (by rw [hop]; exact ⟨by decide, rfl⟩)
  · exact .inl (same hop)
  · exact .inr (by rw [hop]; exact ⟨by decide, rfl⟩)

theorem opOf_mem_of_masked_mem {w : Cmd} (h : w &&& 0xF00 ∈ [0x100#12, 0x500#12, 0x800#12]) :
    opOf w ∈ [0x1#4, 0x5#4, 0x8#4] := by
  rw [and_opMask_eq_cmdWord] at h
  generalize opOf w = op at h ⊢
  decide +revert

/-- Settles O10: by the rows of `classify` and of `decodeCmd`. -/
theorem decodedOperationIsWellFormed : Obligations.DecodedOperationIsWellFormed := by
  unfold Obligations.DecodedOperationIsWellFormed
  refine ⟨fun _ _ _ => decodeInput_wellFormed, fun w i h => ?_⟩
  rcases encode_of_decodeCmd h with henc | ⟨hop, henc⟩
  · exact ⟨w, henc, rfl, fun _ => rfl⟩
  · refine ⟨_, henc, ?_, fun hmem => absurd (opOf_mem_of_masked_mem hmem) hop⟩
    rw [and_opMask_eq_cmdWord, and_opMask_eq_cmdWord w, opOf_cmdWord]

end Sys2Proof

namespace Sys2Proof.Machine

/-! ### Steps -/

/-- Settles O3: `step` takes the first input, decodes it and runs it. -/
theorem stepRunsTheDecodedOperation : Obligations.StepRunsTheDecodedOperation :=
  fun _ _ _ _ => step_of_decodeInput_ok

/-- Settles O4: the idle step reports no outputs and writes no register. -/
theorem idleStepKeepsRegisters : Obligations.IdleStepKeepsRegisters :=
  fun _ => step_of_input_nil

/-- Settles O11: the eight words under the mask are the reserved op codes, and the rejection is reported alone. -/
theorem reservedCommandReportsIllegalOpAndChangesNothing : Obligations.ReservedCommandReportsIllegalOpAndChangesNothing := by
  unfold Obligations.ReservedCommandReportsIllegalOpAndChangesNothing
  intro s w rest hin hw
  exact step_of_decodeInput_error hin (decodeCmd_of_reserved (opOf_mem_reservedOps hw))

/-- The command DEC.BYTE of a byte decodes to it. -/
theorem decodeCmd_decByte (b : Byte) : decodeCmd (cmdWord 0x8#4 b) = .ok (.decByte b) := by simp [decodeCmd]

/-- Settles O36: both inputs decode to operations that do the same. -/
theorem wireByteIsDecByteOfItsSymbol : Obligations.WireByteIsDecByteOfItsSymbol := by
  unfold Obligations.WireByteIsDecByteOfItsSymbol
  refine ⟨fun s b => exec_decByte_eq_exec_symbol b s, ?_⟩
  rintro s t b rest hin rfl
  rw [step_of_decodeInput_ok hin (decodeInput_wire s.esc b), ← cmdWord_eight_eq_or,
    step_of_decodeInput_ok (s := { s with input := .cmd (cmdWord 0x8#4 b) :: rest }) rfl (decodeCmd_decByte b)]
  exact (exec_decByte_eq_exec_symbol b { s with input := rest }).symm

/-- SYM.ESC_BAD is the only wire symbol that reports a framing error, and it does nothing else than take it (R161). -/
theorem exec_symbol_framingError {y : Symbol} {s t : State} (hx : exec y.toInstr s = .next t)
    (hev : t.outs.ev = .framingError) : (∃ c, y = .escBad c) ∧ t = takeFramingError s := by
  cases y with
  | escBad c => cases hx; exact ⟨⟨c, rfl⟩, rfl⟩
  | start | stop | esc | data | escStart | escEnd | escEsc => cases hx; cases hev

/-- A byte is a bad code only with an escape pending, and only when it is no mapped code (R66). -/
theorem of_classify_eq_escBad {esc : Bool} {b c : Byte} (h : classify esc b = .escBad c) :
    esc = true ∧ b ≠ 0xDE#8 ∧ b ≠ 0xDC#8 ∧ b ≠ 0xDD#8 := by
  cases esc with
  | false => rcases classify_plain_cases b with ⟨-, hb⟩ | ⟨-, hb⟩ | ⟨-, hb⟩ | ⟨-, -, -, hb⟩ <;> cases hb.symm.trans h
  | true =>
    rcases classify_escaped_cases b with ⟨-, hb⟩ | ⟨-, hb⟩ | ⟨-, hb⟩ | ⟨h1, h2, h3, hb⟩ <;> cases hb.symm.trans h
    exact ⟨rfl, h1, h2, h3⟩

/-- Settles O40: an event comes from a consumed byte, a framing error only from SYM.ESC_BAD, which takes it. -/
theorem framingErrorComesOnlyFromABadEscape : Obligations.FramingErrorComesOnlyFromABadEscape := by
  unfold Obligations.FramingErrorComesOnlyFromABadEscape
  intro s t ht hev
  obtain ⟨b, rest, hin, hx⟩ := byte_of_step_with_event ht (by simp [hev])
  obtain ⟨⟨c, hbad⟩, rfl⟩ := exec_symbol_framingError hx hev
  obtain ⟨hesc, h1, h2, h3⟩ := of_classify_eq_escBad hbad
  exact ⟨b, rest, cmdWord_eight_eq_or b ▸ hin, hesc, h1, h2, h3, rfl, rfl, rfl, rfl⟩

/-! ### A program of issued commands -/

/-- A symbol's rule does not read what is issued. -/
theorem exec_symbol_setInput {y : Symbol} {s t : State} (h : exec y.toInstr s = .next t) (xs : List Input) :
    exec y.toInstr { s with input := xs } = .next { t with input := xs } := by
  cases y <;> cases h <;> rfl

/-- No operation reads what is issued. -/
theorem exec_setInput {i : Instr} {s t : State} (h : exec i s = .next t) (xs : List Input) :
    exec i { s with input := xs } = .next { t with input := xs } := by
  cases i with
  | decByte b =>
    rw [exec_decByte_eq_exec_symbol] at h ⊢
    exact exec_symbol_setInput h xs
  | _ => cases h; rfl

/-- With the spelling of a command first, the step runs the command. -/
theorem step_of_issued_command {i : Instr} (hi : i.isCommand = true) {s t : State} (h : exec i s = .next t) (xs : List Input) :
    step { s with input := encode i ++ xs } = .next { t with input := xs } := by
  obtain ⟨w, henc, hd⟩ := encode_command hi
  rw [henc, step_of_decodeInput_ok (s := { s with input := [.cmd w] ++ xs }) (x := .cmd w) rfl hd]
  exact exec_setInput h xs

/-- Settles O53, by induction on the program: the first step runs the first command and leaves the rest of the program issued. -/
theorem issuedCommandsRunInOrder : Obligations.IssuedCommandsRunInOrder := by
  unfold Obligations.IssuedCommandsRunInOrder
  intro is
  induction is with
  | nil => rintro s rest - rfl; exact ⟨s, [], rfl, rfl, run_zero s⟩
  | cons i is ih =>
    intro s rest hcmd hin
    obtain ⟨u, hu, huin⟩ := exec_completes i s
    obtain ⟨t, os, hissue, hlen, hrun⟩ := ih u rest (fun j hj => hcmd j (List.mem_cons_of_mem i hj)) (huin.trans hin)
    refine ⟨t, u.outs :: os, by rw [issueAll_cons_of_exec hu, hissue]; rfl, by simp [hlen], ?_⟩
    rw [List.flatMap_cons, List.append_assoc, List.length_cons,
      run_succ _ (step_of_issued_command (hcmd i List.mem_cons_self) hu _)]
    exact hrun

end Sys2Proof.Machine
end

section
/-! PROOFS of the family 'other': the SLIP decoder as a function of chunks and as DEC.BYTE on the block, and the round trip of a wire
frame. -/

namespace Sys2Proof.Machine

/-! ### The rules of the symbols, written out (R154 to R161) -/

/-- An event clears the decoder, and keeps `crc` and what is issued. -/
theorem clearDec_report_ofEvent (s : State) (e : Event) :
    s.clearDec.report (.ofEvent e) = { s with buf := [], esc := false, outs := ⟨[], none, e, none⟩ } := rfl

/-- Settles O31: SYM.START clears the decoder with no event; SYM.DATA pushes its byte. -/
theorem startDropsAndDataAccumulates : Obligations.StartDropsAndDataAccumulates := by
  unfold Obligations.StartDropsAndDataAccumulates
  intro s _
  refine ⟨?_, fun b _ _ _ => (exec_symData b s).trans (pushData_eq b s)⟩
  rw [exec_symStart, State.clearDec, writeDec_report_empty]

/-- Settles O32: the frame is the buffer before it is cleared. -/
theorem endEmitsTheWholeBuffer : Obligations.EndEmitsTheWholeBuffer := by
  unfold Obligations.EndEmitsTheWholeBuffer
  intro s _
  rw [exec_symEnd, clearDec_report_ofEvent]

/-- Settles O35: the rule looks at no code byte. -/
theorem badEscapeTakesTheFramingError : Obligations.BadEscapeTakesTheFramingError := by
  unfold Obligations.BadEscapeTakesTheFramingError
  intro s c _ _ _ _
  rw [exec_symEscBad, clearDec_report_ofEvent]

/-- Settles O30: each row of the table is one symbol's rule. -/
theorem decByteFollowsTheTransitionTable : Obligations.DecByteFollowsTheTransitionTable := by
  unfold Obligations.DecByteFollowsTheTransitionTable
  intro s b
  rw [exec_decByte_eq_exec_symbol]
  cases hesc : s.esc with
  | false =>
    rcases classify_plain_cases b with ⟨rfl, h⟩ | ⟨rfl, h⟩ | ⟨rfl, h⟩ | ⟨h1, h2, h3, h⟩ <;> rw [h]
    iterate 3 rfl
    refine (pushData_eq b s).trans ?_
    simp [h1, h2, h3]
  | true =>
    rcases classify_escaped_cases b with ⟨rfl, h⟩ | ⟨rfl, h⟩ | ⟨rfl, h⟩ | ⟨h1, h2, h3, h⟩ <;> rw [h]
    iterate 3 rfl
    refine (exec_symEscBad b s).trans ?_
    simp [h1, h2, h3, clearDec_report_ofEvent]

/-! ### One byte (R163) -/

/-- DEC.BYTE is `dec_step` on the decoder's registers, with the event shown. -/
theorem exec_decByte_eq_decStep (b : Byte) (s : State) :
    exec (.decByte b) s = .next ((s.writeDec (decStep s.dec b).1.buf (decStep s.dec b).1.esc).report (.ofEvent (decStep s.dec b).2)) := by
  simp only [exec, execDecByte, decStep, State.dec_esc]
  cases classify s.esc b <;> rfl

/-- A byte that is no marker is appended, with no event. -/
theorem decStep_of_not_marker (buf : List Byte) {b : Byte} (h₁ : b ≠ 0xA5#8) (h₂ : b ≠ 0xC0#8) (h₃ : b ≠ 0xDB#8) :
    decStep ⟨buf, false⟩ b = (⟨buf ++ [b], false⟩, .none) := by
  simp [decStep, classify, h₁, h₂, h₃]

/-- `dec_step` keeps the flag as R22 says. -/
theorem decStep_esc (d : DecState) (b : Byte) : (decStep d b).1.esc = escAfter d.esc b := by
  obtain ⟨buf, esc⟩ := d
  cases esc with
  | false =>
    rcases classify_plain_cases b with ⟨rfl, h⟩ | ⟨rfl, h⟩ | ⟨rfl, h⟩ | ⟨-, -, hb, h⟩ <;> simp [decStep, escAfter, *]
  | true => rcases classify_escaped_cases b with ⟨-, h⟩ | ⟨-, h⟩ | ⟨-, h⟩ | ⟨-, -, -, h⟩ <;> simp [decStep, escAfter, h]

/-- A byte gives a frame exactly when it is an END with no escape pending. -/
theorem countP_isFrame_decStep (d : DecState) (b : Byte) :
    (decStep d b).2.toList.countP Event.isFrame = if !d.esc && b == Config.ksf.stop then 1 else 0 := by
  obtain ⟨buf, esc⟩ := d
  cases esc with
  | false =>
    rcases classify_plain_cases b with ⟨rfl, h⟩ | ⟨rfl, h⟩ | ⟨rfl, h⟩ | ⟨-, hb, -, h⟩ <;>
      simp [decStep, Event.toList, Event.isFrame, *]
  | true =>
    rcases classify_escaped_cases b with ⟨-, h⟩ | ⟨-, h⟩ | ⟨-, h⟩ | ⟨-, -, -, h⟩ <;>
      simp [decStep, Event.toList, Event.isFrame, h]

theorem Event.length_toList_le (e : Event) : e.toList.length ≤ 1 := by
  cases e <;> simp [Event.toList]

/-- `dec_step` leaves the initial state after an event (R155, R161). -/
theorem decStep_eq_initial_of_event {d : DecState} {b : Byte} (h : (decStep d b).2 ≠ .none) : (decStep d b).1 = ⟨[], false⟩ := by
  unfold decStep at h ⊢
  cases hc : classify d.esc b with
  | stop | escBad => rfl
  | start | esc | data | escStart | escEnd | escEsc => simp [hc] at h

/-! ### Chunks (R164, R166) -/

@[simp] theorem decFeed_nil (d : DecState) : decFeed d [] = (d, []) := rfl

theorem decFeed_cons (d : DecState) (b : Byte) (rest : List Byte) :
    decFeed d (b :: rest) =
      ((decFeed (decStep d b).1 rest).1, (decStep d b).2.toList ++ (decFeed (decStep d b).1 rest).2) := rfl

theorem decFeed_append (d : DecState) (a b : List Byte) :
    decFeed d (a ++ b) = ((decFeed (decFeed d a).1 b).1, (decFeed d a).2 ++ (decFeed (decFeed d a).1 b).2) := by
  induction a generalizing d with
  | nil => rfl
  | cons x a ih => rw [List.cons_append, decFeed_cons, ih, decFeed_cons, List.append_assoc]

/-- Settles O43, by induction on the first chunk. -/
theorem decFeedIsChunkIndependent : Obligations.DecFeedIsChunkIndependent := decFeed_append

theorem countP_isFrame_decFeed (d : DecState) (chunk : List Byte) :
    (decFeed d chunk).2.countP Event.isFrame = unescapedEnds d.esc chunk := by
  induction chunk generalizing d with
  | nil => rfl
  | cons b rest ih => rw [decFeed_cons, List.countP_append, countP_isFrame_decStep, ih, decStep_esc, unescapedEnds]

theorem length_decFeed_le (d : DecState) (chunk : List Byte) : (decFeed d chunk).2.length ≤ chunk.length := by
  induction chunk generalizing d with
  | nil => simp
  | cons b rest ih =>
    have hfirst := (decStep d b).2.length_toList_le
    have hrest := ih (decStep d b).1
    rw [decFeed_cons, List.length_append, List.length_cons]
    omega

/-- Settles O44, by induction on the chunk. -/
theorem framesAreCountedByUnescapedEnds : Obligations.FramesAreCountedByUnescapedEnds :=
  fun d chunk => ⟨countP_isFrame_decFeed d chunk, length_decFeed_le d chunk⟩

/-! ### No length limit (R170) -/

theorem decFeed_of_no_markers (buf l : List Byte) (h : ∀ b ∈ l, b ≠ 0xA5 ∧ b ≠ 0xC0 ∧ b ≠ 0xDB) :
    decFeed ⟨buf, false⟩ l = (⟨buf ++ l, false⟩, []) := by
  induction l generalizing buf with
  | nil => simp
  | cons b rest ih =>
    obtain ⟨⟨h₁, h₂, h₃⟩, hrest⟩ := List.forall_mem_cons.mp h
    rw [decFeed_cons, decStep_of_not_marker buf h₁ h₂ h₃, ih _ hrest]
    simp [Event.toList]

/-- Settles O48: plain bytes are appended one by one; a finite buffer is `bufAppend_bounded`. -/
theorem bufferGrowsWithoutLimit : Obligations.BufferGrowsWithoutLimit := by
  unfold Obligations.BufferGrowsWithoutLimit
  refine ⟨decFeed_of_no_markers, fun n buf b hn => ?_⟩
  rw [bufAppend_bounded]
  by_cases hroom : buf.length < n
  · rw [if_pos hroom]
    refine ⟨⟨nofun, fun hfull => absurd hfull hroom.ne⟩, ?_⟩
    rintro _ ⟨⟩
    exact ⟨rfl, by simpa using hroom⟩
  · rw [if_neg hroom]
    exact ⟨⟨fun _ => by omega, fun _ => rfl⟩, nofun⟩

/-! ### The round trip (R165) -/

/-- A START reaches the initial state from every state; a pending escape makes it a bad code (D9, D10). -/
theorem decFeed_start (d : DecState) : decFeed d [0xA5#8] = (⟨[], false⟩, if d.esc then [.framingError] else []) := by
  obtain ⟨buf, esc⟩ := d
  cases esc <;> rfl

/-- The spelling of a byte is read as that byte. -/
theorem decFeed_escOf (buf : List Byte) (b : Byte) : decFeed ⟨buf, false⟩ (escOf b) = (⟨buf ++ [b], false⟩, []) := by
  rcases escOf_cases b with ⟨rfl, -⟩ | ⟨rfl, -⟩ | ⟨rfl, -⟩ | ⟨h₁, h₂, h₃, h⟩
  iterate 3 rfl
  rw [h]
  exact decFeed_of_no_markers buf [b] (by simp [h₁, h₂, h₃])

theorem decFeed_flatMap_escOf (buf s : List Byte) :
    decFeed ⟨buf, false⟩ (s.flatMap escOf) = (⟨buf ++ s, false⟩, []) := by
  induction s generalizing buf with
  | nil => simp
  | cons b rest ih => simp [decFeed_append, decFeed_escOf, ih]

/-- A wire frame from any decoder state: its START resynchronizes, its content is collected, its END delivers it. -/
theorem decFeed_slipEncode (d : DecState) (s : List Byte) :
    decFeed d (slipEncode s) = (⟨[], false⟩, (if d.esc then [.framingError] else []) ++ [.frame s]) := by
  have hstop : decFeed ⟨s, false⟩ [0xC0#8] = (⟨[], false⟩, [.frame s]) := rfl
  rw [slipEncode_eq, decFeed_append, decFeed_append, decFeed_start, decFeed_flatMap_escOf, List.nil_append, hstop, List.append_nil]

/-- Settles O46: the two values of the flag. -/
theorem slipRoundTripFromAnyState : Obligations.SlipRoundTripFromAnyState :=
  fun buf s => ⟨decFeed_slipEncode ⟨buf, false⟩ s, decFeed_slipEncode ⟨buf, true⟩ s⟩

/-- Settles O47: the first START resynchronizes, and the second finds the decoder in its initial state. -/
theorem twoStartsReachIdle : Obligations.TwoStartsReachIdle := by
  unfold Obligations.TwoStartsReachIdle
  intro d
  refine (decFeed_append d [0xA5#8] [0xA5#8]).trans ?_
  simp [decFeed_start]

/-! ### DEC.FEED on the block -/

@[simp] theorem eventsOf_cons (o : Outputs) (os : List Outputs) : eventsOf (o :: os) = o.ev.toList ++ eventsOf os := rfl

/-- The outputs and the state of DEC.BYTE of each byte of a chunk: each is one `dec_step`. -/
theorem issueAll_decBytes (chunk : List Byte) (s : State) :
    ∃ t os, issueAll (chunk.map .decByte) s = .next (t, os) ∧ eventsOf os = (decFeed s.dec chunk).2 ∧
      t.dec = (decFeed s.dec chunk).1 ∧ t.crc = s.crc ∧ t.input = s.input := by
  induction chunk generalizing s with
  | nil => exact ⟨s, [], rfl, rfl, rfl, rfl, rfl⟩
  | cons b rest ih =>
    obtain ⟨t, os, hissue, hev, hdec, hcrc, hin⟩ := ih
      ((s.writeDec (decStep s.dec b).1.buf (decStep s.dec b).1.esc).report (.ofEvent (decStep s.dec b).2))
    refine ⟨t, .ofEvent (decStep s.dec b).2 :: os, ?_, ?_, hdec, hcrc, hin⟩
    · rw [List.map_cons, issueAll_cons_of_exec (exec_decByte_eq_decStep b s), hissue]
      rfl
    · rw [eventsOf_cons, hev]
      rfl

/-- Settles O45: the host keeps the events of the outputs. -/
theorem decFeedRunsOnTheBlock : Obligations.DecFeedRunsOnTheBlock := by
  unfold Obligations.DecFeedRunsOnTheBlock
  intro chunk s
  obtain ⟨t, os, hissue, hev, hdec, hcrc, hin⟩ := issueAll_decBytes chunk s
  exact ⟨t, by rw [hostDecFeed, hissue, HostRun.next_andThen, hev], hdec, hcrc, hin⟩

end Sys2Proof.Machine
end

section
/-! PROOFS of the family 'other': the CRC as an algebra. Every shift of the register is linear over XOR; with this hardware's
polynomial it is also one to one, which is what the residue form and the sensitivity to errors rest on. -/

namespace Sys2Proof.Machine

/-! ### Linearity over XOR (R116), for every parameter record -/

theorem crcStepBit_eq_xor (k : Config) (c : Word) :
    crcStepBit k c = (c >>> 1) ^^^ (if c.getLsbD 0 then k.crcPoly else 0#16) := by
  rw [crcStepBit]
  split <;> simp

theorem crcStepBit_xor (k : Config) (a b : Word) : crcStepBit k (a ^^^ b) = crcStepBit k a ^^^ crcStepBit k b := by
  have hpoly : (if (a ^^^ b).getLsbD 0 then k.crcPoly else 0#16) =
      (if a.getLsbD 0 then k.crcPoly else 0#16) ^^^ (if b.getLsbD 0 then k.crcPoly else 0#16) := by
    rw [BitVec.getLsbD_xor]
    cases a.getLsbD 0 <;> cases b.getLsbD 0 <;> simp
  simp only [crcStepBit_eq_xor, BitVec.ushiftRight_xor_distrib, hpoly]
  ac_rfl

theorem crcShifts_xor (k : Config) (n : Nat) (a b : Word) :
    crcShifts k n (a ^^^ b) = crcShifts k n a ^^^ crcShifts k n b := by
  induction n generalizing a b with
  | zero => rfl
  | succ n ih => rw [crcShifts, crcStepBit_xor, ih]; rfl

@[simp] theorem crcShifts_zero (k : Config) (n : Nat) : crcShifts k n 0#16 = 0#16 := by
  simpa using crcShifts_xor k n 0#16 0#16

theorem reverse_xor {w : Nat} (a b : BitVec w) : (a ^^^ b).reverse = a.reverse ^^^ b.reverse := by
  apply BitVec.eq_of_getLsbD_eq
  intro i _
  simp [BitVec.getLsbD_reverse]

theorem crcIn_xor (k : Config) (a b : Byte) : crcIn k (a ^^^ b) = crcIn k a ^^^ crcIn k b := by
  rw [crcIn, crcIn, crcIn, reverse_xor]
  split <;> rfl

theorem crcStepByte_eq (k : Config) (c : Word) (b : Byte) :
    crcStepByte k c b = crcShifts k 8 (c ^^^ (crcIn k b).setWidth 16) := rfl

theorem crcStepByte_xor (k : Config) (c d : Word) (a b : Byte) :
    crcStepByte k (c ^^^ d) (a ^^^ b) = crcStepByte k c a ^^^ crcStepByte k d b := by
  rw [crcStepByte_eq, crcStepByte_eq, crcStepByte_eq, ← crcShifts_xor, crcIn_xor, BitVec.setWidth_xor]
  congr 1
  ac_rfl

theorem crcAbsorb_cons (k : Config) (c : Word) (b : Byte) (s : List Byte) :
    crcAbsorb k c (b :: s) = crcAbsorb k (crcStepByte k c b) s := rfl

theorem crcAbsorb_append (k : Config) (c : Word) (s t : List Byte) :
    crcAbsorb k c (s ++ t) = crcAbsorb k (crcAbsorb k c s) t := List.foldl_append

theorem crcAbsorb_xor (k : Config) (c d : Word) {a b : List Byte} (h : a.length = b.length) :
    crcAbsorb k (c ^^^ d) (List.zipWith (fun x y => x ^^^ y) a b) = crcAbsorb k c a ^^^ crcAbsorb k d b := by
  induction a generalizing b c d with
  | nil => cases b with
    | nil => rfl
    | cons => cases h
  | cons x a ih => cases b with
    | nil => cases h
    | cons y b =>
      rw [List.zipWith_cons_cons, crcAbsorb_cons, crcStepByte_xor, ih _ _ (Nat.succ.inj h)]
      rfl

theorem crcOut_xor (k : Config) (h : k.crcXorOut = 0) (a b : Word) : crcOut k (a ^^^ b) = crcOut k a ^^^ crcOut k b := by
  have hz (c : Word) : c ^^^ (0 : Word) = c := BitVec.xor_zero
  rw [crcOut, crcOut, crcOut, h, hz, hz, hz, reverse_xor]
  split <;> rfl

/-- Settles O16: the register is linear from the register 0, and so is what is delivered with no final XOR. -/
theorem crcIsLinearForZeroInitAndXorOut : Obligations.CrcIsLinearForZeroInitAndXorOut := by
  unfold Obligations.CrcIsLinearForZeroInitAndXorOut
  intro k hinit hout a b hlen
  have hzero : k.crcInit = k.crcInit ^^^ k.crcInit := by rw [hinit]; rfl
  rw [crc16, hzero, crcAbsorb_xor k _ _ hlen, crcOut_xor k hout]
  rfl

/-! ### The checksum of this hardware -/

theorem crc16_ksf (s : List Byte) : crc16 Config.ksf s = crcAbsorb Config.ksf 0#16 s := crcOut_ksf _

theorem crcStepByte_ksf (c : Word) (b : Byte) : crcStepByte Config.ksf c b = crcShifts Config.ksf 8 (c ^^^ b.setWidth 16) := rfl

theorem crc16_append (s t : List Byte) : crc16 Config.ksf (s ++ t) = crcAbsorb Config.ksf (crc16 Config.ksf s) t := by
  rw [crc16_ksf, crc16_ksf, crcAbsorb_append]

theorem and_one_eq_one_iff (c : Word) : c &&& 1 = 1 ↔ c.getLsbD 0 = true := by
  refine (iff_of_eq (congrArg (· = 1#16) (BitVec.and_one_eq_setWidth_ofBool_getLsbD (x := c)))).trans ?_
  cases c.getLsbD 0 <;> decide

/-- Settles O13: `crcShifts` is the iteration, and the bit it looks at is the word's remainder by 2. -/
theorem crcUpdAbsorbsTheByteInEightShifts : Obligations.CrcUpdAbsorbsTheByteInEightShifts := by
  unfold Obligations.CrcUpdAbsorbsTheByteInEightShifts
  intro s din
  have hbit : (fun c : Word => if c &&& 1 = 1 then (c >>> 1) ^^^ 0x8408 else c >>> 1) = crcStepBit Config.ksf := by
    funext c
    simp only [crcStepBit, and_one_eq_one_iff, ksf_crcPoly]
    rfl
  rw [hbit, exec_crcUpd]
  rfl

/-- While the low bits are zero a shift only shifts. -/
theorem crcShifts_of_low_bits_zero (k : Config) (n : Nat) (c : Word) (h : ∀ i < n, c.getLsbD i = false) :
    crcShifts k n c = c >>> n := by
  induction n generalizing c with
  | zero => simp [crcShifts]
  | succ n ih =>
    have hbit : crcStepBit k c = c >>> 1 := by rw [crcStepBit, h 0 (Nat.succ_pos n)]; rfl
    have hlow (i : Nat) (hi : i < n) : (c >>> 1).getLsbD i = false := by
      rw [BitVec.getLsbD_ushiftRight]; exact h (1 + i) (by omega)
    rw [crcShifts, hbit, ih _ hlow, ← BitVec.shiftRight_add, Nat.add_comm]

/-- The bits above the low byte, the low byte cleared. -/
theorem getLsbD_shiftRight_shiftLeft (c : Word) (i : Nat) (hi : i < 16) :
    ((c >>> 8) <<< 8).getLsbD i = (!decide (i < 8) && c.getLsbD i) := by
  by_cases h8 : i < 8
  · simp [h8]
  · have hback : 8 + (i - 8) = i := by omega
    simp [h8, hi, hback]

/-- The one-lookup form (R108): the low byte indexes the table, the high byte is shifted down. -/
theorem crcStepByte_eq_table (c : Word) (b : Byte) :
    crcStepByte Config.ksf c b = (c >>> 8) ^^^ crcTable Config.ksf ((c ^^^ b.setWidth 16).setWidth 8) := by
  have hsplit : c ^^^ b.setWidth 16 = ((c >>> 8) <<< 8) ^^^ ((c ^^^ b.setWidth 16).setWidth 8).setWidth 16 := by
    apply BitVec.eq_of_getLsbD_eq
    intro i hi
    rw [BitVec.getLsbD_xor, BitVec.getLsbD_xor, getLsbD_shiftRight_shiftLeft c i hi]
    by_cases h8 : i < 8
    · simp [hi, h8]
    · simp [hi, h8, BitVec.getLsbD_of_ge b i (by omega)]
  have hback : ((c >>> 8) <<< 8) >>> 8 = c >>> 8 := by bv_omega
  have hhigh : crcShifts Config.ksf 8 ((c >>> 8) <<< 8) = c >>> 8 := by
    rw [crcShifts_of_low_bits_zero _ _ _ (fun i hi => by simp [hi]), hback]
  calc crcStepByte Config.ksf c b
      = crcShifts Config.ksf 8 (((c >>> 8) <<< 8) ^^^ ((c ^^^ b.setWidth 16).setWidth 8).setWidth 16) := by
        rw [crcStepByte_ksf, ← hsplit]
    _ = (c >>> 8) ^^^ crcShifts Config.ksf 8 (((c ^^^ b.setWidth 16).setWidth 8).setWidth 16) := by rw [crcShifts_xor, hhigh]
    _ = (c >>> 8) ^^^ crcTable Config.ksf ((c ^^^ b.setWidth 16).setWidth 8) := by
        rw [crcTable, crcStepByte_ksf]
        simp

/-- Settles O15: the table form is that of the register's byte step. -/
theorem crcUpdEqualsItsTableForm : Obligations.CrcUpdEqualsItsTableForm := by
  unfold Obligations.CrcUpdEqualsItsTableForm
  intro s din
  rw [exec_crcUpd, crcStepByte_eq_table]
  rfl

/-! ### No two registers, and no two bytes, are absorbed alike -/

/-- The polynomial's top bit shows which bit was shifted out, so no register but 0 is shifted to 0. -/
theorem eq_zero_of_crcStepBit_eq_zero {c : Word} (h : crcStepBit Config.ksf c = 0#16) : c = 0#16 := by
  rw [crcStepBit_eq_xor, ksf_crcPoly] at h
  cases hlow : c.getLsbD 0 with
  | true =>
    rw [hlow, if_pos rfl, BitVec.xor_eq_zero_iff] at h
    bv_omega
  | false =>
    rw [hlow, if_neg Bool.false_ne_true, BitVec.xor_zero] at h
    have hsmall : c = 0#16 ∨ c = 1#16 := by bv_omega
    rcases hsmall with rfl | rfl
    · rfl
    · cases hlow

theorem crcShifts_injective (n : Nat) : Function.Injective (crcShifts Config.ksf n) := by
  intro a b h
  induction n generalizing a b with
  | zero => exact h
  | succ n ih =>
    have hbit : crcStepBit Config.ksf (a ^^^ b) = 0#16 := by
      rw [crcStepBit_xor, BitVec.xor_eq_zero_iff]; exact ih h
    exact BitVec.xor_eq_zero_iff.mp (eq_zero_of_crcStepBit_eq_zero hbit)

theorem crcStepByte_left_injective (b : Byte) : Function.Injective (fun c => crcStepByte Config.ksf c b) :=
  fun _ _ h => (BitVec.xor_left_inj _).mp (crcShifts_injective 8 h)

theorem crcStepByte_right_injective (c : Word) : Function.Injective (crcStepByte Config.ksf c) := by
  intro a b h
  have hwide : a.setWidth 16 = b.setWidth 16 := (BitVec.xor_right_inj c).mp (crcShifts_injective 8 h)
  simpa using congrArg (BitVec.setWidth 8) hwide

theorem crcAbsorb_left_injective (s : List Byte) : Function.Injective (fun c => crcAbsorb Config.ksf c s) := by
  intro a b h
  induction s generalizing a b with
  | nil => exact h
  | cons x s ih => exact crcStepByte_left_injective x (ih h)

/-- Two sequences that differ in one byte have different checksums. -/
theorem eq_of_crc16_replace_eq {s t : List Byte} {a b : Byte}
    (h : crc16 Config.ksf (s ++ a :: t) = crc16 Config.ksf (s ++ b :: t)) : a = b := by
  rw [crc16_append, crc16_append] at h
  exact crcStepByte_right_injective _ (crcAbsorb_left_injective t h)

/-! ### The residue (R112) -/

theorem setWidth_u16le (a b : Byte) : (u16le a b).setWidth 8 = a := by
  rw [BitVec.setWidth_eq_extractLsb' (by decide)]
  exact lo8_u16le a b

theorem u16le_ushiftRight (a b : Byte) : u16le a b >>> 8 = b.setWidth 16 := by
  apply BitVec.eq_of_getLsbD_eq
  intro i hi
  by_cases h8 : i < 8
  · have h16 : 8 + i < 16 := by omega
    simp [u16le, hi, h8, h16]
  · simp [u16le, hi, BitVec.getLsbD_of_ge b i (by omega)]

/-- A checksum absorbed after itself, low byte first, leaves 0: each byte cancels the low byte of the register. -/
theorem crcAbsorb_own_bytes (a b : Byte) : crcAbsorb Config.ksf (u16le a b) [a, b] = 0#16 := by
  have hfirst : crcStepByte Config.ksf (u16le a b) a = b.setWidth 16 := by
    have hlow : (u16le a b ^^^ a.setWidth 16).setWidth 8 = 0#8 := by
      rw [BitVec.setWidth_xor, setWidth_u16le]
      simp
    rw [crcStepByte_eq_table, hlow, u16le_ushiftRight, crcTable, crcStepByte_ksf]
    simp
  rw [crcAbsorb_cons, crcAbsorb_cons, hfirst, crcStepByte_ksf, BitVec.xor_self, crcShifts_zero]
  rfl

theorem crc16_append_pair_eq_zero_iff (body : List Byte) (a b : Byte) :
    crc16 Config.ksf (body ++ [a, b]) = 0#16 ↔ crc16 Config.ksf body = u16le a b := by
  rw [crc16_append, ← crcAbsorb_own_bytes a b]
  exact (crcAbsorb_left_injective [a, b]).eq_iff

/-! ### CRC.APPEND and CRC.CHECK (R110, R111) -/

theorem crcAppend_eq (k : Config) (p : List Byte) : crcAppend k p = p ++ [lo8 (crc16 k p), hi8 (crc16 k p)] := rfl

theorem crcCheck_append (k : Config) (body : List Byte) (a b : Byte) :
    crcCheck k (body ++ [a, b]) = if crc16 k body = u16le a b then .ok body else .error .crcMismatch := by
  rw [crcCheck, splitFrame_append]

/-- Everything `crc_check` can answer. -/
theorem crcCheck_cases (k : Config) (f : List Byte) :
    (f.length < 2 ∧ crcCheck k f = .error .truncated) ∨
    (∃ body a b, f = body ++ [a, b] ∧ crc16 k body = u16le a b ∧ crcCheck k f = .ok body) ∨
    (∃ body a b, f = body ++ [a, b] ∧ crc16 k body ≠ u16le a b ∧ crcCheck k f = .error .crcMismatch) := by
  rcases splitFrame_cases k f with ⟨hlen, hsplit⟩ | ⟨body, a, b, rfl, -⟩
  · exact .inl ⟨hlen, by rw [crcCheck, hsplit]⟩
  · by_cases h : crc16 k body = u16le a b
    · exact .inr (.inl ⟨body, a, b, rfl, h, by rw [crcCheck_append, if_pos h]⟩)
    · exact .inr (.inr ⟨body, a, b, rfl, h, by rw [crcCheck_append, if_neg h]⟩)

theorem crcCheck_crcAppend (k : Config) (p : List Byte) : crcCheck k (crcAppend k p) = .ok p := by
  rw [crcAppend_eq, crcCheck_append, u16le_lo8_hi8, if_pos rfl]

theorem eq_crcAppend_of_crcCheck_eq_ok {k : Config} {f body : List Byte} (h : crcCheck k f = .ok body) : f = crcAppend k body := by
  rcases crcCheck_cases k f with ⟨-, hf⟩ | ⟨p, a, b, rfl, hsum, hf⟩ | ⟨p, a, b, -, -, hf⟩ <;> cases hf.symm.trans h
  rw [crcAppend_eq, hsum, lo8_u16le, hi8_u16le]

/-- Settles O19: the two directions, and the lengths of the three cases. -/
theorem checkAcceptsExactlyAppendedFrames : Obligations.CheckAcceptsExactlyAppendedFrames := by
  unfold Obligations.CheckAcceptsExactlyAppendedFrames
  intro k f
  refine ⟨fun body => ⟨eq_crcAppend_of_crcCheck_eq_ok, fun h => h ▸ crcCheck_crcAppend k body⟩, ?_, ?_⟩
  · rcases crcCheck_cases k f with ⟨hlen, h⟩ | ⟨body, a, b, rfl, -, h⟩ | ⟨body, a, b, rfl, -, h⟩ <;> rw [h]
    · exact ⟨fun _ => hlen, fun _ => rfl⟩
    · simp
    · simp
  · rcases crcCheck_cases k f with ⟨-, h⟩ | ⟨body, a, b, -, -, h⟩ | ⟨body, a, b, -, -, h⟩ <;> rw [h] <;> nofun

/-- Settles O18: the residue of a frame with two bytes more than its body. -/
theorem checkPassesExactlyOnZeroResidue : Obligations.CheckPassesExactlyOnZeroResidue := by
  unfold Obligations.CheckPassesExactlyOnZeroResidue
  intro f hlen
  rcases crcCheck_cases Config.ksf f with ⟨hshort, -⟩ | ⟨body, a, b, rfl, hsum, h⟩ | ⟨body, a, b, rfl, hsum, h⟩
  · exact absurd hlen hshort.not_ge
  · exact ⟨fun _ => (crc16_append_pair_eq_zero_iff body a b).mpr hsum, fun _ => ⟨body, h⟩⟩
  · rw [h]
    exact ⟨nofun, fun hzero => absurd ((crc16_append_pair_eq_zero_iff body a b).mp hzero) hsum⟩

/-! ### Zero bytes (R116) -/

theorem crc16_replicate_zero (n : Nat) : crc16 Config.ksf (List.replicate n 0) = 0#16 := by
  rw [crc16_ksf]
  induction n with
  | zero => rfl
  | succ n ih =>
    have hstep : crcStepByte Config.ksf 0#16 0 = 0#16 := crcShifts_zero Config.ksf 8
    rw [List.replicate_succ, crcAbsorb_cons, hstep, ih]

/-- Settles O17: zero bytes leave the register 0 at 0, and 0 is what two zero bytes declare. -/
theorem leadingZeroBytesDoNotChangeTheChecksum : Obligations.LeadingZeroBytesDoNotChangeTheChecksum := by
  unfold Obligations.LeadingZeroBytesDoNotChangeTheChecksum
  refine ⟨fun n s => ?_, crc16_replicate_zero, fun n => ?_⟩
  · rw [crc16_append, crc16_replicate_zero, crc16_ksf]
  · have htwo : u16le 0 0 = 0#16 := by decide
    rw [List.replicate_add, show List.replicate 2 (0 : Byte) = [0, 0] from rfl, crcCheck_append, crc16_replicate_zero, htwo,
      if_pos rfl]

/-! ### One inverted bit (R115) -/

/-- The mask of one bit of a byte changes the byte. -/
theorem xor_bit_ne (b : Byte) (j : Nat) : b ^^^ (1#8 <<< (j % 8)) ≠ b := by
  intro h
  have hmask : 1#8 <<< (j % 8) = 0#8 := (BitVec.xor_right_inj b).mp (h.trans BitVec.xor_zero.symm)
  have hj : j % 8 < 8 := Nat.mod_lt j (by decide)
  generalize j % 8 = m at hmask hj
  interval_cases m <;> cases hmask

theorem crc16_flipBit_ne {f : List Byte} {i : Nat} (h : i < 8 * f.length) :
    crc16 Config.ksf (flipBit f i) ≠ crc16 Config.ksf f := by
  obtain ⟨pre, b, post, rfl, -, hflip⟩ :=
    List.exists_of_modify (fun b : Byte => b ^^^ (1#8 <<< (i % 8))) (Nat.div_lt_of_lt_mul h)
  rw [flipBit, hflip]
  exact fun heq => xor_bit_ne b i (eq_of_crc16_replace_eq heq)

/-- Settles O20: the packet's residue is 0 and the damaged frame's is not, while its length is that of a whole frame. -/
theorem anySingleBitErrorFailsTheCheck : Obligations.AnySingleBitErrorFailsTheCheck := by
  unfold Obligations.AnySingleBitErrorFailsTheCheck
  intro p i hi
  have hgood : crc16 Config.ksf (crcAppend Config.ksf p) = 0#16 := by
    rw [crcAppend_eq, crc16_append_pair_eq_zero_iff, u16le_lo8_hi8]
  have hbad : crc16 Config.ksf (flipBit (crcAppend Config.ksf p) i) ≠ 0#16 := hgood ▸ crc16_flipBit_ne hi
  have hlen : (flipBit (crcAppend Config.ksf p) i).length = p.length + 2 := by
    rw [flipBit, List.length_modify, crcAppend_eq, List.length_append]; rfl
  rcases crcCheck_cases Config.ksf (flipBit (crcAppend Config.ksf p) i) with
    ⟨hshort, -⟩ | ⟨body, a, b, hf, hsum, -⟩ | ⟨_, _, _, -, -, h⟩
  · omega
  · exact absurd (hf ▸ (crc16_append_pair_eq_zero_iff body a b).mpr hsum) hbad
  · exact h

end Sys2Proof.Machine
end

section
/-! PROOFS of the family 'other': the resets, the operations that repeat, and the composites run on the block by a host. -/

namespace Sys2Proof.Machine

/-! ### Reset and the single operations (R34, R105 to R107, R132 to R134, R273) -/

/-- Settles O1: the reset state, field by field. -/
theorem resetLeavesTheBlockClear : Obligations.ResetLeavesTheBlockClear :=
  ⟨rfl, rfl, ksf_crcInit, rfl, rfl, rfl⟩

/-- Settles O2: each reset by what it writes. -/
theorem threeResetsReachDifferentRegisters : Obligations.ThreeResetsReachDifferentRegisters := by
  unfold Obligations.ThreeResetsReachDifferentRegisters
  exact fun s => ⟨⟨State.fullReset_buf s, State.fullReset_esc s, State.fullReset_crc s⟩,
    ⟨_, exec_decRst s, rfl, rfl, rfl⟩, ⟨_, exec_crcClr s, rfl, rfl, rfl⟩⟩

/-- Settles O12: CRC.CLR writes `crc` alone. -/
theorem crcClrClearsTheRemainder : Obligations.CrcClrClearsTheRemainder := exec_crcClr

/-- Settles O14: CRC.RD writes no register. -/
theorem crcRdReturnsTheRemainder : Obligations.CrcRdReturnsTheRemainder := exec_crcRd

/-- Settles O24: ENC.BYTE reports `esc_of` of its byte. -/
theorem encByteReturnsTheWireSpelling : Obligations.EncByteReturnsTheWireSpelling :=
  fun s din => exec_encByte din s

/-- Settles O26: the delimiters. -/
theorem encSofAndEncEofReturnTheDelimiters : Obligations.EncSofAndEncEofReturnTheDelimiters :=
  fun s => ⟨exec_encSof s, exec_encEof s⟩

/-- Settles O42: what only reports reports the same again, and what clears finds the register clear. -/
theorem readingAndEncodingRepeat : Obligations.ReadingAndEncodingRepeat := by
  unfold Obligations.ReadingAndEncodingRepeat
  constructor
  · rintro i s (rfl | rfl | rfl | ⟨d, rfl⟩)
    · exact ⟨_, exec_crcRd s, exec_crcRd _, rfl, rfl, rfl⟩
    · exact ⟨_, exec_encSof s, exec_encSof _, rfl, rfl, rfl⟩
    · exact ⟨_, exec_encEof s, exec_encEof _, rfl, rfl, rfl⟩
    · exact ⟨_, exec_encByte d s, exec_encByte d _, rfl, rfl, rfl⟩
  · rintro i s (rfl | rfl)
    · exact ⟨_, exec_crcClr s, exec_crcClr _⟩
    · exact ⟨_, exec_decRst s, exec_decRst _⟩

/-! ### CRC.COMPUTE and CRC.CHECK (R109, R111, R113) -/

/-- Only the last value written to `crc` is there, and the outputs do not depend on it. -/
@[simp] theorem State.writeCrc_writeCrc (s : State) (v w : Word) : (s.writeCrc v).writeCrc w = s.writeCrc w := rfl
@[simp] theorem State.report_writeCrc (s : State) (o : Outputs) (v : Word) :
    (s.report o).writeCrc v = (s.writeCrc v).report o := rfl

theorem hostReadCrc_eq (s : State) : hostReadCrc s = .next (s.report (.ofValue s.crc), s.crc) := by
  simp [hostReadCrc, issueOp, exec_crcRd]

/-- CRC.UPD of each byte absorbs the bytes; only the outputs depend on there being a byte at all. -/
theorem issueAll_crcUpds (bytes : List Byte) (s : State) :
    ∃ o os, issueAll (bytes.map .crcUpd) s = .next ((s.writeCrc (crcAbsorb Config.ksf s.crc bytes)).report o, os) := by
  induction bytes generalizing s with
  | nil => exact ⟨s.outs, [], rfl⟩
  | cons b rest ih =>
    obtain ⟨o, os, h⟩ := ih ((s.writeCrc (crcStepByte Config.ksf s.crc b)).report .empty)
    exact ⟨o, .empty :: os, by rw [List.map_cons, issueAll_cons_of_exec (exec_crcUpd b s), h]; rfl⟩

theorem hostCrcCompute_eq (bytes : List Byte) (s : State) :
    hostCrcCompute bytes s = .next
      ((s.writeCrc (crc16 Config.ksf bytes)).report (.ofValue (crc16 Config.ksf bytes)), crc16 Config.ksf bytes) := by
  obtain ⟨o, os, h⟩ := issueAll_crcUpds bytes ((s.writeCrc 0#16).report .empty)
  rw [hostCrcCompute, issueAll_cons_of_exec (exec_crcClr s), h, HostRun.next_andThen, HostRun.next_andThen, hostReadCrc_eq, crc16_ksf]
  rfl

/-- Settles O22: the register is cleared, absorbs the bytes and is read. -/
theorem crcComputeRunsToTheChecksum : Obligations.CrcComputeRunsToTheChecksum := hostCrcCompute_eq

theorem hostCrcCheck_append (body : List Byte) (a b : Byte) (s : State) :
    hostCrcCheck (body ++ [a, b]) s = .next
      ((s.writeCrc (crc16 Config.ksf body)).report (.ofValue (crc16 Config.ksf body)), checkResult (body ++ [a, b])) := by
  rw [hostCrcCheck, splitFrame_append]
  simp only [hostCrcCompute_eq, HostRun.next_andThen, checkResult, crcCheck_append]
  split <;> rfl

theorem hostCrcCheck_of_short {f : List Byte} (h : f.length < 2) (s : State) :
    hostCrcCheck f s = .next (s, .corrupted .truncated) := by
  rcases splitFrame_cases Config.ksf f with ⟨-, hsplit⟩ | ⟨body, a, b, rfl, -⟩
  · rw [hostCrcCheck, hsplit]
  · simp at h

/-- Settles O23: the run of CRC.COMPUTE on the body, and none for a frame that has no checksum. -/
theorem crcCheckRunsToItsResult : Obligations.CrcCheckRunsToItsResult := by
  unfold Obligations.CrcCheckRunsToItsResult
  exact fun s => ⟨fun body a b => ⟨_, hostCrcCheck_append body a b s, rfl, rfl, rfl, rfl⟩, fun _ h => hostCrcCheck_of_short h s⟩

/-! ### TX.SEND (R181, R183) -/

/-- The one pass over a packet absorbs and spells each byte. -/
theorem issueAll_updAndEnc (p : List Byte) (s : State) :
    ∃ o os, issueAll (p.flatMap fun b => [.crcUpd b, .encByte b]) s =
      .next ((s.writeCrc (crcAbsorb Config.ksf s.crc p)).report o, os) ∧ wireOf os = p.flatMap escOf := by
  induction p generalizing s with
  | nil => exact ⟨s.outs, [], rfl, rfl⟩
  | cons b rest ih =>
    obtain ⟨o, os, h, hwire⟩ := ih ((s.writeCrc (crcStepByte Config.ksf s.crc b)).report (.ofBytes (escOf b)))
    refine ⟨o, .empty :: .ofBytes (escOf b) :: os, ?_, by simp [hwire]⟩
    rw [List.flatMap_cons, List.cons_append, List.cons_append, List.nil_append, issueAll_cons_of_exec (exec_crcUpd b s),
      issueAll_cons_of_exec (exec_encByte b _), State.report_report, h]
    rfl

/-- The sent bytes of a packet: its spelling, then that of its checksum, between the delimiters. -/
theorem txSend_eq (p : List Byte) :
    txSend p = [0xA5#8] ++ p.flatMap escOf ++ escOf (lo8 (crc16 Config.ksf p)) ++ escOf (hi8 (crc16 Config.ksf p)) ++ [0xC0#8] := by
  simp [txSend, slipEncode_eq, crcAppend_eq]

theorem hostTxSend_eq (p : List Byte) (s : State) :
    hostTxSend p s = .next ((s.writeCrc (crc16 Config.ksf p)).report (.ofBytes [0xC0#8]), txSend p) := by
  obtain ⟨o, os, h, hwire⟩ := issueAll_updAndEnc p ((s.writeCrc 0#16).report (.ofBytes [0xA5#8]))
  rw [hostTxSend, txSendFirstOps, issueAll_cons_of_exec (exec_crcClr s), issueAll_cons_of_exec (exec_encSof _),
    State.report_report, h]
  simp only [HostRun.next_andThen, hostReadCrc_eq, txSendLastOps, issueAll_encBytes_encEof, wireOf_encBytes_encEof, wireOf_cons, hwire]
  simp [txSend_eq, crc16_ksf, le16]

theorem length_txSendOps (p : List Byte) (q : Word) :
    (txSendFirstOps p ++ [Instr.crcRd] ++ txSendLastOps q).length = 2 * p.length + 6 := by
  simp [txSendFirstOps, txSendLastOps, le16]
  omega

/-- Settles O49: CRC.CLR and ENC.SOF, the one pass, CRC.RD, the two checksum bytes and ENC.EOF. -/
theorem txSendRunsToTheSentFrame : Obligations.TxSendRunsToTheSentFrame := by
  unfold Obligations.TxSendRunsToTheSentFrame
  exact ⟨fun p s => by rw [hostTxSend_eq, txSend_eq]; rfl, fun p => ⟨txSend_eq p, length_txSendOps p⟩⟩

/-! ### RX.FEED (R186, R189) -/

theorem rxFeed_eq (d : DecState) (chunk : List Byte) :
    rxFeed d chunk = ((decFeed d chunk).1, (decFeed d chunk).2.flatMap rxResult) := rfl

theorem crcAfterChecks_append (c : Word) (xs ys : List Event) :
    crcAfterChecks c (xs ++ ys) = crcAfterChecks (crcAfterChecks c xs) ys := List.foldl_append

/-- `None` has no result and no check. -/
theorem flatMap_rxResult_toList (e : Event) : e.toList.flatMap rxResult = rxResult e := by
  cases e <;> simp [Event.toList, rxResult]

/-- The error path leaves a decoder in its initial state there (R189). -/
theorem hostAfterResult_completes (r : RxResult) {s : State} (hs : s.dec = ⟨[], false⟩) :
    ∃ t, hostAfterResult r s = .next (t, r) ∧ t.dec = ⟨[], false⟩ ∧ t.crc = s.crc ∧ t.input = s.input := by
  cases r with
  | body b => exact ⟨s, rfl, hs, rfl, rfl⟩
  | framingError | corrupted => exact ⟨_, rfl, rfl, rfl, rfl⟩

/-- CRC.CHECK of a frame leaves the checksum of its body in `crc`, if it has one, and the decoder alone. -/
theorem hostCrcCheck_completes (f : List Byte) (s : State) :
    ∃ t, hostCrcCheck f s = .next (t, checkResult f) ∧ t.dec = s.dec ∧ t.crc = crcAfterChecks s.crc [.frame f] ∧
      t.input = s.input := by
  rcases splitFrame_cases Config.ksf f with ⟨hlen, hsplit⟩ | ⟨body, a, b, rfl, hsplit⟩
  · refine ⟨s, ?_, rfl, by simp [crcAfterChecks, hsplit], rfl⟩
    rw [hostCrcCheck_of_short hlen, checkResult, crcCheck, hsplit]
  · exact ⟨_, hostCrcCheck_append body a b s, rfl, by simp [crcAfterChecks, hsplit], rfl⟩

/-- What the host does with an event, which left the decoder in its initial state, gives the event's result and keeps that state. -/
theorem hostTakeEvent_completes (e : Event) {s : State} (hs : e ≠ .none → s.dec = ⟨[], false⟩) :
    ∃ t, hostTakeEvent e s = .next (t, rxResult e) ∧ t.dec = s.dec ∧ t.crc = crcAfterChecks s.crc e.toList ∧
      t.input = s.input := by
  cases e with
  | none => exact ⟨s, rfl, rfl, rfl, rfl⟩
  | framingError =>
    obtain ⟨t, ht, hdec, hcrc, hin⟩ := hostAfterResult_completes .framingError (hs nofun)
    exact ⟨t, by rw [hostTakeEvent, ht]; rfl, hdec.trans (hs nofun).symm, hcrc, hin⟩
  | frame f =>
    obtain ⟨u, hu, hudec, hucrc, huin⟩ := hostCrcCheck_completes f s
    obtain ⟨t, ht, hdec, hcrc, hin⟩ := hostAfterResult_completes (checkResult f) (hudec.trans (hs nofun))
    refine ⟨t, ?_, hdec.trans (hs nofun).symm, hcrc.trans hucrc, hin.trans huin⟩
    rw [hostTakeEvent, hu, HostRun.next_andThen, ht]
    rfl

theorem issueOp_of_exec {i : Instr} {s t : State} (h : exec i s = .next t) : issueOp i s = .next (t, t.outs) := by
  rw [issueOp, h]

theorem issueOp_decByte (b : Byte) (s : State) :
    ∃ t, issueOp (.decByte b) s = .next (t, .ofEvent (decStep s.dec b).2) ∧ t.dec = (decStep s.dec b).1 ∧ t.crc = s.crc ∧
      t.input = s.input :=
  ⟨_, issueOp_of_exec (exec_decByte_eq_decStep b s), rfl, rfl, rfl⟩

/-- Settles O50, by induction on the chunk: DEC.BYTE is one `dec_step`, and an event finds the decoder in the state that DEC.RST
would set. -/
theorem rxFeedRunsOnTheBlock : Obligations.RxFeedRunsOnTheBlock := by
  unfold Obligations.RxFeedRunsOnTheBlock
  intro chunk
  induction chunk with
  | nil => exact fun s => ⟨s, rfl, rfl, rfl, rfl⟩
  | cons b rest ih =>
    intro s
    obtain ⟨u, hu, hudec, hucrc, huin⟩ := issueOp_decByte b s
    obtain ⟨v, hv, hvdec, hvcrc, hvin⟩ := hostTakeEvent_completes (decStep s.dec b).2 (s := u)
      fun hev => hudec.trans (decStep_eq_initial_of_event hev)
    obtain ⟨t, ht, hdec, hcrc, hin⟩ := ih v
    rw [hvdec, hudec] at ht hdec hcrc
    rw [hvcrc, hucrc] at hcrc
    rw [rxFeed_eq, decFeed_cons, List.flatMap_append, flatMap_rxResult_toList, crcAfterChecks_append]
    refine ⟨t, ?_, hdec, hcrc, hin.trans (hvin.trans huin)⟩
    rw [hostRxFeed, hu, HostRun.next_andThen, Outputs.ofEvent_ev, hv, HostRun.next_andThen, ht]
    rfl

/-! ### A sent packet is received (R190, R191) -/

theorem checkResult_crcAppend (p : List Byte) : checkResult (crcAppend Config.ksf p) = .body p := by
  rw [checkResult, crcCheck_crcAppend]

/-- From any decoder state a sent packet is received, after one framing error when an escape was pending. -/
theorem rxFeed_txSend (d : DecState) (p : List Byte) :
    rxFeed d (txSend p) = (⟨[], false⟩, (if d.esc then [.framingError] else []) ++ [.body p]) := by
  rw [rxFeed_eq, txSend, decFeed_slipEncode]
  cases d.esc <;> simp [rxResult, checkResult_crcAppend]

theorem crcAfterChecks_sent (c : Word) (p : List Byte) :
    crcAfterChecks c [.frame (crcAppend Config.ksf p)] = crc16 Config.ksf p := by
  simp [crcAfterChecks, crcAppend_eq]

/-- Settles O51: the decoder delivers the sent frame, whose check passes; the block does what the function does. -/
theorem sentPacketIsReceivedAsItsBody : Obligations.SentPacketIsReceivedAsItsBody := by
  unfold Obligations.SentPacketIsReceivedAsItsBody
  refine ⟨fun buf p => rxFeed_txSend ⟨buf, false⟩ p, fun s p hesc => ?_⟩
  obtain ⟨t, ht, hdec, hcrc, -⟩ := rxFeedRunsOnTheBlock (txSend p) s
  rw [rxFeed_txSend, State.dec_esc, hesc] at ht hdec
  rw [txSend, decFeed_slipEncode, State.dec_esc, hesc] at hcrc
  exact ⟨t, ht, congrArg DecState.buf hdec, congrArg DecState.esc hdec, hcrc.trans (crcAfterChecks_sent s.crc p)⟩

/-- Settles O52: the sent frame is received from the state that the chunk leaves, whatever it is. -/
theorem errorsAreLocalToTheirFrame : Obligations.ErrorsAreLocalToTheirFrame := by
  unfold Obligations.ErrorsAreLocalToTheirFrame
  intro d chunk p
  have happend : rxFeed d (chunk ++ txSend p) =
      ((rxFeed (rxFeed d chunk).1 (txSend p)).1, (rxFeed d chunk).2 ++ (rxFeed (rxFeed d chunk).1 (txSend p)).2) := by
    simp only [rxFeed_eq, decFeed_append, List.flatMap_append]
  rw [happend, rxFeed_txSend, List.append_assoc]

end Sys2Proof.Machine
end

section
/-! PROOFS of the family 'other': where the markers stand in a wire frame. -/

namespace Sys2Proof.Machine

/-- No byte is spelled with a START or an END. -/
theorem not_mem_escOf {m : Byte} (hm : m = 0xA5#8 ∨ m = 0xC0#8) (b : Byte) : m ∉ escOf b := by
  rcases escOf_cases b with ⟨-, h⟩ | ⟨-, h⟩ | ⟨-, h⟩ | ⟨h₁, h₂, -, h⟩ <;> rw [h]
  iterate 3
    · rcases hm with rfl | rfl <;> decide
  · rcases hm with rfl | rfl
    · simpa using h₁.symm
    · simpa using h₂.symm

theorem count_flatMap_escOf {m : Byte} (hm : m = 0xA5#8 ∨ m = 0xC0#8) (s : List Byte) : (s.flatMap escOf).count m = 0 := by
  rw [List.count_eq_zero, List.mem_flatMap]
  rintro ⟨b, -, hmem⟩
  exact not_mem_escOf hm b hmem

/-- Every ESC is immediately followed by a mapped code. -/
def EscsAreFollowed (l : List Byte) : Prop :=
  ∀ i : Nat, l[i]? = some 0xDB → ∃ c ∈ [0xDE#8, 0xDC#8, 0xDD#8], l[i + 1]? = some c

theorem EscsAreFollowed.cons_of_ne {b : Byte} {l : List Byte} (h : EscsAreFollowed l) (hb : b ≠ 0xDB#8) :
    EscsAreFollowed (b :: l) := by
  intro i hi
  cases i with
  | zero => exact absurd (Option.some.inj hi) hb
  | succ i => exact h i hi

theorem EscsAreFollowed.cons_pair {c : Byte} {l : List Byte} (h : EscsAreFollowed l) (hc : c ∈ [0xDE#8, 0xDC#8, 0xDD#8]) :
    EscsAreFollowed (0xDB#8 :: c :: l) := by
  have hne : c ≠ 0xDB#8 := by rintro rfl; revert hc; decide
  intro i hi
  cases i with
  | zero => exact ⟨c, hc, rfl⟩
  | succ i => exact h.cons_of_ne hne i hi

theorem EscsAreFollowed.escOf_append {l : List Byte} (h : EscsAreFollowed l) (b : Byte) : EscsAreFollowed (escOf b ++ l) := by
  rcases escOf_cases b with ⟨-, hb⟩ | ⟨-, hb⟩ | ⟨-, hb⟩ | ⟨-, -, hne, hb⟩ <;> rw [hb]
  iterate 3
    · exact h.cons_pair (by decide)
  · exact h.cons_of_ne hne

theorem EscsAreFollowed.flatMap_escOf_append {l : List Byte} (h : EscsAreFollowed l) (s : List Byte) :
    EscsAreFollowed (s.flatMap escOf ++ l) := by
  induction s with
  | nil => exact h
  | cons b rest ih => rw [List.flatMap_cons, List.append_assoc]; exact ih.escOf_append b

theorem escsAreFollowed_slipEncode (s : List Byte) : EscsAreFollowed (slipEncode s) := by
  have hnil : EscsAreFollowed [] := nofun
  have hstop : EscsAreFollowed [0xC0#8] := hnil.cons_of_ne (by decide)
  exact (hstop.flatMap_escOf_append s).cons_of_ne (by decide)

/-- Of a START or an END a wire frame holds what its delimiters are. -/
theorem count_slipEncode {m : Byte} (hm : m = 0xA5#8 ∨ m = 0xC0#8) (s : List Byte) :
    (slipEncode s).count m = [0xA5#8].count m + [0xC0#8].count m := by
  rw [slipEncode_eq, List.count_append, List.count_append, count_flatMap_escOf hm, Nat.add_zero]

/-- Settles O28: the spellings hold no START, no END, and each ESC with its code; the delimiters add one START and one END. -/
theorem wireFrameHasMarkersOnlyAtItsEnds : Obligations.WireFrameHasMarkersOnlyAtItsEnds := by
  unfold Obligations.WireFrameHasMarkersOnlyAtItsEnds
  intro s
  refine ⟨rfl, count_slipEncode (.inl rfl) s, ?_, count_slipEncode (.inr rfl) s, escsAreFollowed_slipEncode s⟩
  rw [slipEncode_eq, List.getLast?_append]
  rfl

end Sys2Proof.Machine
end

section
/-! PROOFS of the family 'other': the packet codec's layouts and its header (context, spec/45_packet_context.md). -/

namespace Sys2Proof.Machine

/-! ### The header read back (R202, R203) -/

/-- The declared length of every encoding counts the bytes after the header, but for a RadioSend with a supplied payload. -/
theorem Packet.encoding_counts {p : Packet} {n : Nat} {bytes : List Byte} (h : p.encoding = some (n, bytes))
    (hp : ∀ b supplied, p ≠ .radioSend (b :: supplied)) : n = bytes.length := by
  cases p with
  | ping | radioPhyConfig | radioFreqConfig | radioLoraConfig | enterSleepStop2 | radioGoSleep | radioGoIdle | radioRecvStart |
      pong | ack | nack => cases h; rfl
  | radioSend supplied =>
    cases supplied with
    | nil => cases h; rfl
    | cons b rest => exact absurd rfl (hp b rest)
  | radioReceivedPacket => cases h

/-- The two length bytes of a header declare the length. -/
theorem toNat_u16le_ofNat {n : Nat} (hn : n < 65536) :
    (u16le (BitVec.ofNat 8 (n % 256)) (BitVec.ofNat 8 (n / 256))).toNat = n := by
  have hbytes := le16_ofNat n
  simp only [le16, List.cons.injEq, and_true] at hbytes
  rw [← hbytes.1, ← hbytes.2, u16le_lo8_hi8]
  exact Nat.mod_eq_of_lt hn

/-- A listed type's header: the length check is what is left. -/
theorem deserializeHeader_listed (t : PacketType) {n : Nat} (hn : n < 65536) (rest : List Byte) :
    deserializeHeader Config.ksf (t.code :: BitVec.ofNat 8 (n % 256) :: BitVec.ofNat 8 (n / 256) :: rest) =
      if rest.length < n then .error (.corrupted .length) else .ok (t.code, rest.take n) := by
  simp [deserializeHeader, t.code_listed.1, toNat_u16le_ofNat hn]

/-- Settles O57: a packet that serializes is its header and the bytes of its encoding; what follows the header decides the check. -/
theorem headerOfASerializedPacketIsReadBack : Obligations.HeaderOfASerializedPacketIsReadBack := by
  unfold Obligations.HeaderOfASerializedPacketIsReadBack
  intro p body hbody
  rcases serialize_cases p with ⟨hnone, -⟩ | ⟨n, bytes, -, henc, hn, hsome⟩
  · cases hnone.symm.trans hbody
  cases hsome.symm.trans hbody
  refine ⟨n, bytes, henc, hn, rfl, p.encoding_counts henc, fun hle surplus => ?_, fun m hm hshort _ => ?_⟩
  · have hlen : ¬ (bytes ++ surplus).length < n := by rw [List.length_append]; omega
    refine (deserializeHeader_listed p.type hn (bytes ++ surplus)).trans ?_
    rw [if_neg hlen, List.take_append_of_le_length hle]
  · obtain ⟨m, rfl⟩ := Nat.exists_eq_add_of_le' hm
    have hlen : (bytes.take m).length < n := by rw [List.length_take]; omega
    exact (deserializeHeader_listed p.type hn (bytes.take m)).trans (if_pos hlen)

/-! ### The fields (R208 to R214) -/

/-- One byte of a word, from the bit `i` on. -/
theorem extractLsb'_eq_ofNat_div {w : Nat} (v : BitVec w) (i : Nat) : v.extractLsb' i 8 = BitVec.ofNat 8 (v.toNat / 2 ^ i) := by
  rw [BitVec.extractLsb', Nat.shiftRight_eq_div_pow]

theorem le16_eq_ofNat (v : Word) : le16 v = [BitVec.ofNat 8 v.toNat, BitVec.ofNat 8 (v.toNat / 256)] := by
  simp [le16, lo8, hi8, extractLsb'_eq_ofNat_div]

theorem le32_eq_ofNat (v : BitVec 32) :
    le32 v = [BitVec.ofNat 8 v.toNat, BitVec.ofNat 8 (v.toNat / 256), BitVec.ofNat 8 (v.toNat / 65536),
      BitVec.ofNat 8 (v.toNat / 16777216)] := by
  simp [le32, extractLsb'_eq_ofNat_div]

/-! ### The sync word (R210) -/

/-- Two elements of a list at increasing positions are a sublist. -/
theorem getD_pair_sublist {l : List Byte} {i j : Nat} (hij : i < j) (hj : j < l.length) : [l.getD i 0, l.getD j 0].Sublist l := by
  have hi : i < l.length := hij.trans hj
  have hfirst : [l.getD i 0].Sublist (l.take j) := by
    rw [List.singleton_sublist, List.getD_eq_getElem _ _ hi]
    exact List.mem_take_iff_getElem.mpr ⟨i, by omega, rfl⟩
  have hsecond : [l.getD j 0].Sublist (l.drop j) := by
    rw [List.singleton_sublist, List.getD_eq_getElem _ _ hj]
    exact List.mem_drop_iff_getElem.mpr ⟨0, by omega, rfl⟩
  have hboth := hfirst.append hsecond
  rwa [List.take_append_drop] at hboth

/-- Wherever the free positions lie, a truncated word keeps two of its bytes in their order. -/
theorem keepTwo_sublist {w : List Byte} (hw : 2 ≤ w.length) : (keepTwo w).Sublist w := by
  have hi : (Config.syncKept w).1 % (w.length - 1) < w.length - 1 := Nat.mod_lt _ (by omega)
  have hgap : (Config.syncKept w).2 % (w.length - 1 - (Config.syncKept w).1 % (w.length - 1)) <
      w.length - 1 - (Config.syncKept w).1 % (w.length - 1) := Nat.mod_lt _ (by omega)
  exact getD_pair_sublist (by omega) (by omega)

/-- The two sync bytes: of a long word two of its bytes, and of a short one all of them. -/
theorem syncBytes_cases (w : List Byte) :
    ∃ s₀ s₁ : Byte, syncBytes w = [s₀, s₁] ∧ (2 ≤ w.length → [s₀, s₁].Sublist w) ∧ (w.length ≤ 2 → w.Sublist [s₀, s₁]) := by
  match w with
  | [] => exact ⟨_, _, rfl, nofun, fun _ => List.nil_sublist _⟩
  | [a] =>
    by_cases hleft : Config.syncPadLeft = true
    · exact ⟨Config.syncPadByte 0, a, by rw [syncBytes, if_pos hleft], by simp, by simp⟩
    · exact ⟨a, Config.syncPadByte 1, by rw [syncBytes, if_neg hleft], by simp, by simp⟩
  | [a, b] => exact ⟨a, b, rfl, fun _ => List.Sublist.refl _, fun _ => List.Sublist.refl _⟩
  | a :: b :: c :: rest => exact ⟨_, _, rfl, keepTwo_sublist, fun h => by simp at h⟩

/-! ### The layouts -/

/-- A send-only type other than Ping is sendable. -/
theorem PacketType.sendable_of_sendOnly {t : PacketType} (h : t.capability = some .sendOnly) (hp : t ≠ .ping) :
    t.sendable = true := by
  rw [PacketType.sendable_of_capability h hp, PacketType.implemented_of_capability h]
  rfl

/-- A sendable packet serialized, whatever length its encoding declares. -/
theorem serialize_of_encoding {p : Packet} {n : Nat} {bytes : List Byte} (hs : p.type.sendable = true)
    (he : p.encoding = some (n, bytes)) (hn : n < 65536) :
    serialize p = some (p.type.code :: BitVec.ofNat 8 (n % 256) :: BitVec.ofNat 8 (n / 256) :: bytes) := by
  simp [serialize, hs, he, hn, le16_ofNat]

/-- A send-only packet of `n` counted payload bytes, serialized. -/
theorem serialize_sendOnly {p : Packet} {payload : List Byte} {n : Nat} (hc : p.type.capability = some .sendOnly)
    (hp : p.type ≠ .ping) (he : p.encoding = counted payload) (hlen : payload.length = n) (hn : n < 65536) :
    serialize p = some (p.type.code :: BitVec.ofNat 8 (n % 256) :: BitVec.ofNat 8 (n / 256) :: payload) :=
  serialize_of_encoding (PacketType.sendable_of_sendOnly hc hp) (hlen ▸ he) hn

theorem serialize_radioSend_nil : serialize (.radioSend []) = some [0x42, 0x00, 0x00] :=
  serialize_sendOnly (p := .radioSend []) rfl nofun rfl rfl (by decide)

theorem serialize_radioSend (supplied : List Byte) :
    ∃ (lo hi : Byte) (rest : List Byte), serialize (.radioSend supplied) = some (0x42 :: lo :: hi :: rest) := by
  cases supplied with
  | nil => exact ⟨_, _, _, serialize_radioSend_nil⟩
  | cons b rest =>
    exact ⟨_, _, _, serialize_of_encoding (p := .radioSend (b :: rest)) (PacketType.sendable_of_sendOnly rfl nofun) rfl
      (Config.radioSendParts (b :: rest)).1.isLt⟩

/-- Settles O59: each variant is sendable and its header counts its payload, whose fields are the bytes listed. -/
theorem packetsSerializeInTheirLayouts : Obligations.PacketsSerializeInTheirLayouts := by
  unfold Obligations.PacketsSerializeInTheirLayouts
  refine ⟨?_, fun c => ?_, fun hz => ?_, fun ms => ?_, fun c => ?_, serialize_radioSend_nil, serialize_radioSend, fun _ _ _ => ?_⟩
  · exact serialize_of_encoding (p := .ping) rfl rfl (by decide)
  · exact serialize_sendOnly (p := .radioPhyConfig c) (payload := c.payload) (n := 6) rfl nofun rfl rfl (by decide)
  · rw [serialize_sendOnly (p := .radioFreqConfig hz) (payload := le32 hz) (n := 4) rfl nofun rfl rfl (by decide),
      le32_eq_ofNat]
    rfl
  · rw [serialize_sendOnly (p := .radioRecvStart ms) (payload := le32 ms) (n := 4) rfl nofun rfl rfl (by decide),
      le32_eq_ofNat]
    rfl
  · obtain ⟨s₀, s₁, hsync, hlong, hshort⟩ := syncBytes_cases c.syncWord
    have hlen : c.payload.length = 12 := by simp [LoraConfig.payload, le16, hsync]
    refine ⟨s₀, s₁, ?_, hlong, hshort⟩
    rw [serialize_sendOnly (p := .radioLoraConfig c) rfl nofun rfl hlen (by decide), LoraConfig.payload, hsync, le16_eq_ofNat]
    rfl
  · simp [serialize, Packet.encoding]

end Sys2Proof.Machine
end
